-- ==== Sys2Proof/Word.lean ====
section
/-! DEFINITION. Bits, bit sequences and the one logarithm the widths of an instance are derived with. -/

namespace Sys2Proof

/-- A bit (00_scope.md R11; 43_dense_decoder.md R119: an element of a sequence is one wire, so it is 0 or 1). -/
abbrev Bit := Bool

/-- A sequence of bits, index 0 first (00_scope.md R12). -/
abbrev BitSeq := List Bit

/-- `ceil(log2 n)` for `n >= 1` (00_scope.md R9). -/
def ceilLog2 (n : Nat) : Nat :=
  if n ≤ 1 then 0 else Nat.log2 (n - 1) + 1

end Sys2Proof
end

