-- ==== Sys2Proof/Config.lean ====
section
/-! DEFINITION. The parameters of an instance, the widths derived from them, and the free values. -/

namespace Sys2Proof

/-- An instance of the codec (00_scope.md R8): the integer width `W`, the vector capacity `LMAX`, and the constraint
`1 <= LMAX <= W`, without which there is no instance. -/
structure Config where
  /-- `W`, the width in bits of `n` and of `value`. -/
  w : Nat
  /-- `LMAX`, the wires of a dense vector and the largest legal `len`. -/
  lmax : Nat
  one_le_lmax : 1 ≤ lmax
  lmax_le_w : lmax ≤ w
  deriving DecidableEq, Repr

/-- Why a pair of parameters is refused (00_scope.md R8). -/
inductive ConfigError where
  /-- `LMAX = 0`. Safe: nothing is claimed of such a configuration. -/
  | lmaxZero
  /-- `LMAX > W`. Safe: nothing is claimed of such a configuration. -/
  | lmaxAboveW
  deriving DecidableEq, Repr

/-- The instance with these parameters, or the reason they are refused (00_scope.md R8). -/
def Config.ofParams (w lmax : Nat) : Except ConfigError Config :=
  if h1 : 1 ≤ lmax then
    if h2 : lmax ≤ w then .ok ⟨w, lmax, h1, h2⟩ else .error .lmaxAboveW
  else .error .lmaxZero

namespace Config

/-- `LENW`, the width of a length or count field (00_scope.md R9). -/
def lenw (c : Config) : Nat := ceilLog2 (c.lmax + 1)

/-- `IDXW`, the width of one sparse position (00_scope.md R9). -/
def idxw (c : Config) : Nat := max 1 (ceilLog2 c.lmax)

/-- `REQW`, the width of the flat request word (00_scope.md R9). -/
def reqw (c : Config) : Nat := 3 + c.lenw + c.w + c.lmax

/-- `RSPW`, the width of the flat response word (00_scope.md R9). -/
def rspw (c : Config) : Nat := 2 + c.lmax + c.w + c.lenw + c.lmax * c.idxw

/-- The default instance, `W = 32`, `LMAX = 32` (00_scope.md R10). -/
def default : Config := ⟨32, 32, by decide, by decide⟩

/-- The small instance, `W = 8`, `LMAX = 8` (00_scope.md R10). -/
def small : Config := ⟨8, 8, by decide, by decide⟩

end Config

/-- DESIGN CHOICE (log entry 4). The content of the register `rsp` while `rsp_valid = 0` is unspecified (10_state.md R30,
R33; 93_implementation_defined.md U6): draw number `k` of that content, as a flat response word. No body: nothing is
known of it; that equal numbers give equal contents, in any two states of an instance, is the model's choice. -/
opaque Config.freeRsp (c : Config) : Nat → BitVec c.rspw

/-- DESIGN CHOICE (log entry 4). The content of the register `rsp` at power-up is unspecified (10_state.md R31), as a
flat response word: a constant of its own, related to no draw of `freeRsp`; that every power-up of an instance finds the
same content is the model's choice. No body. -/
opaque Config.freePowerUpRsp (c : Config) : BitVec c.rspw

/-- DESIGN CHOICE (log entry 6). `rsp_valid` at power-up is unspecified (10_state.md R31); that every power-up of an
instance finds the same value is the model's choice. No body. -/
opaque Config.freePowerUpValid (c : Config) : Bool

end Sys2Proof
end

