-- ==== Sys2Proof/Syntax.lean ====
section
/-! DEFINITION. The requests: one constructor of `Instr` for each row of spec/opcode_table.json. -/

namespace Sys2Proof

/-- The two bit orders, under the names of 00_scope.md R15. -/
inductive BitOrder where
  | msbFirst
  | lsbFirst
  deriving DecidableEq, Repr

/-- The fields of a request beside `op` (30_encoding.md R60). Every request carries every field, also the ones its
operation does not read (R68). `n` and `bits` are unsigned numbers; wire `j` of `bits` is bit `j` (20_memory.md R42). -/
structure Fields where
  order : BitOrder
  len : Nat
  n : Nat
  bits : Nat
  deriving DecidableEq, Repr

/-- A request: the operation (30_encoding.md R64) and its fields. -/
inductive Instr where
  /-- The Dense Encoder, `op = 0` (40_dense_encoder.md R90). -/
  | encd (f : Fields)
  /-- The Sparse Encoder, `op = 1` (41_sparse_encoder.md R100). -/
  | encs (f : Fields)
  /-- The Reversed Dense Encoder, `op = 2` (42_reversed_dense_encoder.md R110). -/
  | encr (f : Fields)
  /-- The Dense Decoder, `op = 3` (43_dense_decoder.md R115). -/
  | decd (f : Fields)
  deriving DecidableEq, Repr

/-- The fields of a request beside `op`. -/
def Instr.fields : Instr → Fields
  | .encd f => f
  | .encs f => f
  | .encr f => f
  | .decd f => f

end Sys2Proof
end

