-- ==== Sys2Proof/WellFormed.lean ====
section
/-! DEFINITION. Which requests fit the request word of an instance, and which of those are legal. -/

namespace Sys2Proof

/-- `len` fits its `LENW` wires (30_encoding.md R66). -/
def Fields.lenFits (c : Config) (f : Fields) : Bool := decide (f.len < 2 ^ c.lenw)

/-- `n` is an unsigned `W`-bit number (00_scope.md R8). -/
def Fields.nFits (c : Config) (f : Fields) : Bool := decide (f.n < 2 ^ c.w)

/-- `bits` has no wire at or above `LMAX` (30_encoding.md R60). -/
def Fields.bitsFit (c : Config) (f : Fields) : Bool := decide (f.bits < 2 ^ c.lmax)

/-- Every field of the request can be carried by the request word of the instance (30_encoding.md R60). A request
that does not fit cannot be presented to the hardware. -/
def Instr.wf (c : Config) (i : Instr) : Bool :=
  i.fields.lenFits c && i.fields.nFits c && i.fields.bitsFit c

/-- The request is legal: `len <= LMAX` (30_encoding.md R69). An illegal request is well formed all the same, and is
accepted and answered (60_exceptions.md R152). -/
def Instr.legal (c : Config) (i : Instr) : Bool := decide (i.fields.len ≤ c.lmax)

end Sys2Proof
end

