-- ==== Sys2Proof/Decode.lean ====
section
/-! DEFINITION. Reading a flat request word and writing one (30_encoding.md R60, R64, R65, R76). -/

namespace Sys2Proof

/-- `v[lo + width - 1 : lo]` (00_scope.md R11). -/
def slice (v lo width : Nat) : Nat := (v >>> lo) % 2 ^ width

/-- The `order` wire: 1 is MsbFirst, 0 is LsbFirst (30_encoding.md R65). -/
def BitOrder.ofWire (b : Nat) : BitOrder := if b = 1 then .msbFirst else .lsbFirst

/-- The value of the `order` wire (30_encoding.md R65). -/
def BitOrder.wire : BitOrder → Nat
  | .msbFirst => 1
  | .lsbFirst => 0

/-- The value of the `op` field (30_encoding.md R64). -/
def Instr.op : Instr → Nat
  | .encd _ => 0
  | .encs _ => 1
  | .encr _ => 2
  | .decd _ => 3

/-- The fields beside `op`, cut out of a request word (30_encoding.md R60). -/
def fieldsOfWord (c : Config) (w : Nat) : Fields where
  order := BitOrder.ofWire (slice w 2 1)
  len := slice w 3 c.lenw
  n := slice w (3 + c.lenw) c.w
  bits := slice w (3 + c.lenw + c.w) c.lmax

/-- The request a word stands for, by its two low bits. All four values select a row, so this never fails on `op`
(30_encoding.md R64, R76). -/
def instrOfWord (c : Config) (w : Nat) : Instr :=
  match slice w 0 2 with
  | 0 => .encd (fieldsOfWord c w)
  | 1 => .encs (fieldsOfWord c w)
  | 2 => .encr (fieldsOfWord c w)
  | _ => .decd (fieldsOfWord c w)

/-- The request on the `REQW` wires of the request port (30_encoding.md R76). -/
def decodeReq (c : Config) (q : BitVec c.reqw) : Instr := instrOfWord c q.toNat

/-- Why a number is no request word. -/
inductive DecodeError where
  /-- A bit at or above `REQW` is set: the request port has no wire for it (30_encoding.md R60, R71). Safe. -/
  | wordTooWide
  deriving DecidableEq, Repr

/-- The request a number stands for as a flat request word, or the reason it is none. -/
def decodeWord (c : Config) (w : Nat) : Except DecodeError Instr :=
  if w < 2 ^ c.reqw then .ok (instrOfWord c w) else .error .wordTooWide

/-- The flat request word of a request as a number: the fields packed from bit 0 upward (30_encoding.md R60, R61). -/
def wordOfInstr (c : Config) (i : Instr) : Nat :=
  i.op + 2 ^ 2 * i.fields.order.wire + 2 ^ 3 * i.fields.len + 2 ^ (3 + c.lenw) * i.fields.n
    + 2 ^ (3 + c.lenw + c.w) * i.fields.bits

/-- The request word of a well-formed request. -/
def encode (c : Config) (i : Instr) : BitVec c.reqw := BitVec.ofNat c.reqw (wordOfInstr c i)

/-- The instruction of an opcode-table word of the default instance (00_scope.md R10): the low `nbits` bits of `w`,
every bit above them 0. The one request word is the whole instruction. -/
def decodeTableWord (nbits w : Nat) : Option Instr :=
  (decodeWord Config.default (w % 2 ^ nbits)).toOption

end Sys2Proof
end

