-- ==== Sys2Proof/Machine/Flags.lean ====
section
/-! DEFINITION. The codec has no flags (10_state.md R24). The only condition it reports is the status code of a response,
defined here with the one check that sets it. -/

namespace Sys2Proof.Machine

/-- The four values of the two `status` wires (30_encoding.md R74). -/
inductive Status where
  | ok
  | invalidLength
  /-- Set aside for the source's second error class, never produced (60_exceptions.md R153). -/
  | invalidInput
  /-- Never produced. -/
  | reserved
  deriving DecidableEq, Repr, Inhabited

/-- The code of a status on the wires (30_encoding.md R74). -/
def Status.code : Status → Nat
  | .ok => 0
  | .invalidLength => 1
  | .invalidInput => 2
  | .reserved => 3

/-- The status a code stands for (30_encoding.md R74). -/
def Status.ofCode : Nat → Status
  | 0 => .ok
  | 1 => .invalidLength
  | 2 => .invalidInput
  | _ => .reserved

/-- The one check a request undergoes: InvalidLength exactly when `len > LMAX` (60_exceptions.md R152). -/
def checkLength (c : Config) (len : Nat) : Status :=
  if len > c.lmax then .invalidLength else .ok

end Sys2Proof.Machine
end

