-- ==== Sys2Proof/Machine/Response.lean ====
section
/-! DEFINITION. The response record and its flat word (30_encoding.md R62). -/

namespace Sys2Proof.Machine

/-- The response record of an instance (30_encoding.md R62). -/
structure Response (c : Config) where
  /-- The result code (R74). -/
  status : Status
  /-- The dense sequence result, element `j` on wire `j`. -/
  bits : BitVec c.lmax
  /-- The integer result. -/
  value : BitVec c.w
  /-- The number of entries of the sparse result. -/
  cnt : BitVec c.lenw
  /-- The entries of the sparse result, entry `k` in slot `k`. -/
  pos : Vector (BitVec c.idxw) c.lmax
  deriving DecidableEq, Repr, Inhabited

/-- A fixed number of slots, slot `k` holding `f k`. -/
def slotsOf {α : Type} (n : Nat) (f : Nat → α) : Vector α n :=
  ⟨⟨(List.range n).map f⟩, by simp⟩

/-- Every data field zero (30_encoding.md R75). The operations fill the fields they produce. -/
def blankResponse (c : Config) (st : Status) : Response c where
  status := st
  bits := 0
  value := 0
  cnt := 0
  pos := slotsOf c.lmax fun _ => 0

/-- `ErrorResponse(c)` (60_exceptions.md R155). -/
def errorResponse (c : Config) (st : Status) : Response c := blankResponse c st

/-- The slots as one number, slot 0 lowest, `w` bits a slot. -/
def packSlots {w : Nat} : List (BitVec w) → Nat
  | [] => 0
  | p :: ps => p.toNat + 2 ^ w * packSlots ps

/-- `P0`, the position of slot 0 in the flat response word (30_encoding.md R62). -/
def slotBase (c : Config) : Nat := 2 + c.lmax + c.w + c.lenw

/-- The flat response word as a number: the fields packed from bit 0 upward (30_encoding.md R62, R63). -/
def wordOfResponse {c : Config} (r : Response c) : Nat :=
  r.status.code + 2 ^ 2 * r.bits.toNat + 2 ^ (2 + c.lmax) * r.value.toNat
    + 2 ^ (2 + c.lmax + c.w) * r.cnt.toNat + 2 ^ slotBase c * packSlots r.pos.toList

/-- The `RSPW` wires of the response port (30_encoding.md R62). -/
def packResponse {c : Config} (r : Response c) : BitVec c.rspw := BitVec.ofNat c.rspw (wordOfResponse r)

/-- The response record on the `RSPW` wires (30_encoding.md R62). -/
def unpackResponse (c : Config) (q : BitVec c.rspw) : Response c where
  status := Status.ofCode (slice q.toNat 0 2)
  bits := BitVec.ofNat c.lmax (slice q.toNat 2 c.lmax)
  value := BitVec.ofNat c.w (slice q.toNat (2 + c.lmax) c.w)
  cnt := BitVec.ofNat c.lenw (slice q.toNat (2 + c.lmax + c.w) c.lenw)
  pos := slotsOf c.lmax fun k => BitVec.ofNat c.idxw (slice q.toNat (slotBase c + k * c.idxw) c.idxw)

end Sys2Proof.Machine
end

