-- ==== Sys2Proof/Machine/State.lean ====
section
/-! DEFINITION. The state of the block, the inputs the host drives, the reasons a step can stop, and reset. -/

namespace Sys2Proof.Machine

/-- What the host drives on the input ports before one rising edge of `clk` (10_state.md R29 Table 1). -/
structure Inputs (c : Config) where
  rst : Bool
  reqValid : Bool
  req : BitVec c.reqw
  rspReady : Bool
  deriving DecidableEq, Repr

/-- The state. The spec's own state is `rspValid` and `rsp` (10_state.md R21); the other fields are the model's: the
instance (log entry 1), what the host will drive (log entry 2), whether the block was ever reset (log entry 6) and the
counter of the free values (log entry 5). -/
structure State where
  /-- The instance: `W` and `LMAX`. No step changes it (10_state.md R32). -/
  cfg : Config
  /-- The inputs at the coming edges, the next edge first. DESIGN CHOICE, log entries 2 and 3. -/
  inputs : List (Inputs cfg)
  /-- Whether an edge with `rst = 1` was seen since power-up (10_state.md R31). DESIGN CHOICE, log entry 6. -/
  seenReset : Bool
  /-- The state bit `rsp_valid`: true is holding, false is idle (10_state.md R21 (a)). -/
  rspValid : Bool
  /-- The response holding register; its content has no meaning while `rspValid` is false (10_state.md R21 (b), R33). -/
  rsp : Response cfg
  /-- The index of the next free value of `rsp`. DESIGN CHOICE, log entry 5. -/
  freeCtr : Nat
  deriving DecidableEq, Repr

/-- The reasons for which the machine stops with a fault: none. The codec has no trap; its one error is a response like
any other (60_exceptions.md R150, R159). Safe. -/
inductive Fault where
  deriving DecidableEq, Repr

/-- The reasons for which the model gives a step no meaning. -/
inductive Refusal where
  /-- Raised by `exec` for an instruction that has no meaning in this model: none at present. Safe. -/
  | notModelled (mnemonic : String)
  /-- Raised by `step` at an edge with `rst = 0` while no edge with `rst = 1` was seen since power-up
  (10_state.md R31; 93_implementation_defined.md U7: refuse). Safe: nothing is claimed of such an edge. -/
  | beforeFirstReset
  deriving DecidableEq, Repr

/-- An instance right after an edge with `rst = 1` (10_state.md R30): idle, `rsp` free. DESIGN CHOICE (log entries 4
and 5): that free content is draw 0, and draw 1 comes next. -/
def State.resetOf (c : Config) : State where
  cfg := c
  inputs := []
  seenReset := true
  rspValid := false
  rsp := unpackResponse c (c.freeRsp 0)
  freeCtr := 1

/-- The machine right after reset (10_state.md R30), in the default instance (00_scope.md R10). -/
def State.reset : State := State.resetOf Config.default

/-- An instance at power-up (10_state.md R31): `rsp_valid` and `rsp` are free, each a constant of its own (DESIGN
CHOICE, log entries 4 and 6), no reset was seen, and no draw was made: draw 0 is the content after the first reset edge
(DESIGN CHOICE, log entry 5). -/
def State.powerUp (c : Config) : State where
  cfg := c
  inputs := []
  seenReset := false
  rspValid := c.freePowerUpValid
  rsp := unpackResponse c c.freePowerUpRsp
  freeCtr := 0

end Sys2Proof.Machine
end

