-- ==== Sys2Proof/Machine/Operands.lean ====
section
/-! DEFINITION. How a request's fields become operands and how results are placed on the fields of a response. -/

namespace Sys2Proof.Machine

/-- The sequence operand of `DECD`: `[bits[0], ..., bits[L-1]]` (30_encoding.md R67). -/
def seqOperand (f : Fields) : BitSeq := (List.range f.len).map fun j => f.bits.testBit j

/-- A sequence on a bundle of `k` wires: element `j` on wire `j`, the wires above the sequence 0
(20_memory.md R42, R46). -/
def wires (k : Nat) (s : BitSeq) : BitVec k := (BitVec.ofBoolListLE s).setWidth k

/-- A position list in the slots: entry `k` in slot `k`, the slots above the list 0 (20_memory.md R44, R46). -/
def slots (c : Config) (p : List Nat) : Vector (BitVec c.idxw) c.lmax :=
  slotsOf c.lmax fun k => BitVec.ofNat c.idxw (p.getD k 0)

end Sys2Proof.Machine
end

