-- ==== Sys2Proof/Machine/Ops.lean ====
section
/-! DEFINITION. The named operations on the state: sampling the inputs, writing the two pieces of architectural state,
raising an error, and the outputs. -/

namespace Sys2Proof.Machine

/-- A host that drives nothing: no reset, no request, no readiness. DESIGN CHOICE, log entry 3: what is sampled once
the listed inputs have run out. -/
def quietInputs (c : Config) : Inputs c where
  rst := false
  reqValid := false
  req := 0
  rspReady := false

/-- The inputs just before the coming edge (45_request_execution.md R144). -/
def State.sampled (s : State) : Inputs s.cfg := s.inputs.headD (quietInputs s.cfg)

/-- The host moves on to its inputs for the edge after the coming one. -/
def State.advance (s : State) : State := { s with inputs := s.inputs.tail }

/-- `rsp_valid <- 1; rsp <- r` (45_request_execution.md R144, accept). -/
def State.accept (s : State) (r : Response s.cfg) : State := { s with rspValid := true, rsp := r }

/-- `rsp_valid <- 0; rsp <- unspecified` (45_request_execution.md R144): `rsp` takes the next free value
(DESIGN CHOICE, log entries 4 and 5). -/
def State.release (s : State) : State :=
  { s with rspValid := false, rsp := unpackResponse s.cfg (s.cfg.freeRsp s.freeCtr), freeCtr := s.freeCtr + 1 }

/-- The check at the top of every operation (60_exceptions.md R152): `raise InvalidLength` answers the error response in
place of the result (00_scope.md R14; 60_exceptions.md R155, R159: this is all that taking the codec's one exception
does; returning from it is the delivery of the response, R160). -/
def checked (c : Config) (f : Fields) (result : Response c) : Response c :=
  match checkLength c f.len with
  | .ok => result
  | st => errorResponse c st

/-- The output `req_ready` (45_request_execution.md R142). -/
def State.reqReady (s : State) : Bool := !s.sampled.rst && !s.rspValid

/-- The output `rsp`: the register, meaningful only while `rsp_valid = 1` (10_state.md R29, R33;
45_request_execution.md R142). No value otherwise. -/
def State.rspOut (s : State) : Option (Response s.cfg) := if s.rspValid then some s.rsp else none

/-- The cycles in which the host may read `rsp` (70_reset_and_hazards.md R175 O2). -/
def State.mayReadRsp (s : State) : Bool := s.rspValid && !s.sampled.rst

end Sys2Proof.Machine
end

