-- ==== Sys2Proof/Machine/DenseDecoder.lean ====
section
/-! DEFINITION. `DECD`, the Dense Decoder (43_dense_decoder.md). -/

namespace Sys2Proof.Machine

/-- The loop of `DenseDec` over the elements at indices below `k`, the highest index first (43_dense_decoder.md R115).
The sums and powers are exact (R116). -/
def denseDecLoop (s : BitSeq) : (k sum power : Nat) → Nat
  | 0, sum, _ => sum
  | k + 1, sum, power => denseDecLoop s k (sum + (s.getD k false).toNat * 2 ^ power) (power + 1)

/-- `DenseDec(s)` (43_dense_decoder.md R115). -/
def denseDec (s : BitSeq) : Nat := denseDecLoop s s.length 0 0

/-- `DECD(req)` (43_dense_decoder.md R115). -/
def decd (c : Config) (f : Fields) : Response c :=
  checked c f { blankResponse c .ok with value := BitVec.ofNat c.w (denseDec (seqOperand f)) }

/-- `DECD` at its accept event (45_request_execution.md R144). -/
def execDecd (f : Fields) (s : State) : Host.Outcome State Fault Refusal := .next (s.accept (decd s.cfg f))

end Sys2Proof.Machine
end

