-- ==== Sys2Proof/Machine/DenseEncoder.lean ====
section
/-! DEFINITION. `ENCD`, the Dense Encoder (40_dense_encoder.md). -/

namespace Sys2Proof.Machine

/-- The index at which the bit of weight `2^i` stands in a sequence of length `L` (20_memory.md R41;
40_dense_encoder.md R90). -/
def placeOf (order : BitOrder) (L i : Nat) : Nat :=
  match order with
  | .lsbFirst => i
  | .msbFirst => L - 1 - i

/-- The loop of `DenseEnc` from step `i` on, `k` steps to go, quotient `q`, sequence `s` (40_dense_encoder.md R90). -/
def denseEncLoop (order : BitOrder) (L : Nat) : (k i q : Nat) → BitSeq → BitSeq
  | 0, _, _, s => s
  | k + 1, i, q, s => denseEncLoop order L k (i + 1) (q / 2) (s.set (placeOf order L i) (q % 2 == 1))

/-- `DenseEnc(n, L, order)` (40_dense_encoder.md R90). The loop runs `L` times: the early exit of the source's routine
is not represented (R93). -/
def denseEnc (n L : Nat) (order : BitOrder) : BitSeq := denseEncLoop order L L 0 n (List.replicate L false)

/-- `ENCD(req)` (40_dense_encoder.md R90). -/
def encd (c : Config) (f : Fields) : Response c :=
  checked c f { blankResponse c .ok with bits := wires c.lmax (denseEnc f.n f.len f.order) }

/-- `ENCD` at its accept event (45_request_execution.md R144). -/
def execEncd (f : Fields) (s : State) : Host.Outcome State Fault Refusal := .next (s.accept (encd s.cfg f))

end Sys2Proof.Machine
end

