-- ==== Sys2Proof/Machine/ReversedDenseEncoder.lean ====
section
/-! DEFINITION. `ENCR`, the Reversed Dense Encoder (42_reversed_dense_encoder.md). -/

namespace Sys2Proof.Machine

/-- `ENCR(req)`: `DenseEnc` with the order fixed to LsbFirst, whatever the `order` field says
(42_reversed_dense_encoder.md R110; 90_conflicts.md C1). -/
def encr (c : Config) (f : Fields) : Response c :=
  checked c f { blankResponse c .ok with bits := wires c.lmax (denseEnc f.n f.len .lsbFirst) }

/-- `ENCR` at its accept event (45_request_execution.md R144). -/
def execEncr (f : Fields) (s : State) : Host.Outcome State Fault Refusal := .next (s.accept (encr s.cfg f))

end Sys2Proof.Machine
end

