-- ==== Sys2Proof/Machine/SparseEncoder.lean ====
section
/-! DEFINITION. `ENCS`, the Sparse Encoder (41_sparse_encoder.md). -/

namespace Sys2Proof.Machine

/-- The loop of `SparseEnc` from position `i` on, `k` steps to go, quotient `q`, list `p` (41_sparse_encoder.md R100). -/
def sparseEncLoop : (k i q : Nat) → List Nat → List Nat
  | 0, _, _, p => p
  | k + 1, i, q, p => sparseEncLoop k (i + 1) (q / 2) (if q % 2 = 1 then p ++ [i] else p)

/-- `SparseEnc(n, L)` (41_sparse_encoder.md R100). No early exit (R104). -/
def sparseEnc (n L : Nat) : List Nat := sparseEncLoop L 0 n []

/-- `ENCS(req)` (41_sparse_encoder.md R100). -/
def encs (c : Config) (f : Fields) : Response c :=
  let p := sparseEnc f.n f.len
  checked c f { blankResponse c .ok with cnt := BitVec.ofNat c.lenw p.length, pos := slots c p }

/-- `ENCS` at its accept event (45_request_execution.md R144). -/
def execEncs (f : Fields) (s : State) : Host.Outcome State Fault Refusal := .next (s.accept (encs s.cfg f))

end Sys2Proof.Machine
end

