-- ==== Sys2Proof/Machine/Respond.lean ====
section
/-! DEFINITION. `Exec(req)`, the function from a request to its response (45_request_execution.md R140). -/

namespace Sys2Proof.Machine

/-- `Exec(req)` (45_request_execution.md R140): the length is checked first, for every `op`. -/
def respond (c : Config) (i : Instr) : Response c :=
  if i.fields.len > c.lmax then errorResponse c .invalidLength
  else
    match i with
    | .encd f => encd c f
    | .encs f => encs c f
    | .encr f => encr c f
    | .decd f => decd c f

end Sys2Proof.Machine
end

