-- ==== Sys2Proof/Machine/Dispatch.lean ====
section
/-! DEFINITION. The meaning of every request at its accept event: one arm for each row of spec/opcode_table.json. -/

namespace Sys2Proof.Machine

/-- What request `i` does at the edge that accepts it (45_request_execution.md R140, R144). -/
def exec (i : Instr) (s : State) : Host.Outcome State Fault Refusal :=
  match i with
  | .encd f => Sys2Proof.Machine.execEncd f s
  | .encs f => Sys2Proof.Machine.execEncs f s
  | .encr f => Sys2Proof.Machine.execEncr f s
  | .decd f => Sys2Proof.Machine.execDecd f s

end Sys2Proof.Machine
end

