-- ==== Sys2Proof/Machine/Handshake.lean ====
section
/-! DEFINITION. What happens at an edge (45_request_execution.md R143, R144, R145), and the state changes of the edges
that run no request. -/

namespace Sys2Proof.Machine

/-- What happens at an edge. -/
inductive Event where
  /-- `rst = 1` (45_request_execution.md R144, first case). -/
  | reset
  /-- `rst = 0` before any reset: no rule applies (10_state.md R31). -/
  | beforeFirstReset
  /-- The accept event, with the request accepted (R143). -/
  | accept (i : Instr)
  /-- Idle, nothing presented (R144, third case). -/
  | idle
  /-- The deliver event, with the response delivered (R145). -/
  | deliver (r : Sigma Response)
  /-- Holding, and the host is not ready (R144, last case). -/
  | hold
  deriving DecidableEq, Repr

/-- What happens at the coming edge: `rst` is looked at first, then the state bit (45_request_execution.md R144;
60_exceptions.md R158). -/
def State.event (s : State) : Event :=
  if s.sampled.rst then .reset
  else if !s.seenReset then .beforeFirstReset
  else if s.rspValid then
    if s.sampled.rspReady then .deliver ⟨s.cfg, s.rsp⟩ else .hold
  else if s.sampled.reqValid then .accept (decodeReq s.cfg s.sampled.req)
  else .idle

/-- The edge with `rst = 1` (70_reset_and_hazards.md R170). -/
def State.onReset (s : State) : State := { s.advance.release with seenReset := true }

/-- The idle edge (45_request_execution.md R144). -/
def State.onIdle (s : State) : State := s.advance.release

/-- The deliver edge (45_request_execution.md R144, R145). -/
def State.onDeliver (s : State) : State := s.advance.release

/-- The hold edge: nothing changes (45_request_execution.md R144). -/
def State.onHold (s : State) : State := s.advance

/-- The request word with these low bits, presented at an edge. -/
def presentWord (c : Config) (nbits w : Nat) : Inputs c where
  rst := false
  reqValid := true
  req := BitVec.ofNat c.reqw (w % 2 ^ nbits)
  rspReady := false

end Sys2Proof.Machine
end

