-- ==== Sys2Proof/Machine/Step.lean ====
section
/-! DEFINITION. One rising edge of `clk` (45_request_execution.md R144). -/

namespace Sys2Proof.Machine

/-- One rising edge of `clk` (45_request_execution.md R144). -/
def step (s : State) : Host.Outcome State Fault Refusal :=
  match s.event with
  | .reset => .next s.onReset
  | .beforeFirstReset => .refused .beforeFirstReset
  | .accept i => exec i s.advance
  | .idle => .next s.onIdle
  | .deliver _ => .next s.onDeliver
  | .hold => .next s.onHold

/-- The state in which the host presents this request word at the very next edge and the block is idle, so that the
edge accepts it (45_request_execution.md R143; log entry 9). -/
def State.withFetchWord (s : State) (nbits w : Nat) : State :=
  { s with inputs := presentWord s.cfg nbits w :: s.inputs, seenReset := true, rspValid := false }

end Sys2Proof.Machine
end

