-- ==== Sys2Proof/Machine/Assembler.lean ====
section
/-! DEFINITION. The one-line syntax for requests and responses (30_encoding.md R72, R73). Notation only: no step of the
block uses it. -/

namespace Sys2Proof.Machine

/-- A request line (30_encoding.md R72). -/
inductive AsmLine where
  | encd (n len : Nat) (order : BitOrder)
  /-- `ENCD n, L`, the one pseudo-instruction (R73). -/
  | encdDefault (n len : Nat)
  | encs (n len : Nat)
  | encr (n len : Nat)
  | decd (s : BitSeq)
  deriving DecidableEq, Repr

/-- The request a line stands for; every don't-care field is 0 (30_encoding.md R72). `DECD` with more elements than the
instance has wires puts the elements that have one on them: DEDUCED, log entry 13. -/
def AsmLine.instr (c : Config) : AsmLine → Instr
  | .encd n len order => .encd ⟨order, len, n, 0⟩
  | .encdDefault n len => .encd ⟨.msbFirst, len, n, 0⟩
  | .encs n len => .encs ⟨.lsbFirst, len, n, 0⟩
  | .encr n len => .encr ⟨.lsbFirst, len, n, 0⟩
  | .decd s => .decd ⟨.lsbFirst, s.length, 0, (wires c.lmax s).toNat⟩

/-- Why a line is not assembled. -/
inductive AsmError where
  /-- The text is no line of the table of 30_encoding.md R72. Safe. -/
  | notALine
  /-- A field does not hold its number: `L` above `2^LENW - 1` (30_encoding.md R72) or `n` above `2^W - 1`
  (00_scope.md R8). Safe. -/
  | notEncodable
  deriving DecidableEq, Repr

/-- The request of a line, if the request word of the instance can carry it (30_encoding.md R72). -/
def AsmLine.assemble (c : Config) (a : AsmLine) : Except AsmError Instr :=
  if (a.instr c).wf c then .ok (a.instr c) else .error .notEncodable

/-- The value of a digit, where it is one in this base. -/
def digitValue (base : Nat) (ch : Char) : Option Nat :=
  let k := ch.toNat
  let v :=
    if 48 ≤ k ∧ k ≤ 57 then k - 48
    else if 97 ≤ k ∧ k ≤ 102 then k - 87
    else if 65 ≤ k ∧ k ≤ 70 then k - 55
    else base
  if v < base then some v else none

/-- The digits of a number, most significant first, read on from the value `acc`. -/
def readDigits (base acc : Nat) : List Char → Option Nat
  | [] => some acc
  | ch :: rest =>
    match digitValue base ch with
    | some d => readDigits base (base * acc + d) rest
    | none => none

/-- A number: decimal, hexadecimal with `0x`, or binary with `0b` (30_encoding.md R72). -/
def readNumber : List Char → Option Nat
  | [] => none
  | ['0', 'x'] => none
  | ['0', 'b'] => none
  | '0' :: 'x' :: ds => readDigits 16 0 ds
  | '0' :: 'b' :: ds => readDigits 2 0 ds
  | ds => readDigits 10 0 ds

/-- The text less the spaces at its two ends. DESIGN CHOICE, log entry 14. -/
def trimSpaces (t : List Char) : List Char :=
  ((t.dropWhile (· == ' ')).reverse.dropWhile (· == ' ')).reverse

/-- The text cut at its commas, the part being read held reversed in `cur`. -/
def cutCommas (cur : List Char) : List Char → List (List Char)
  | [] => [cur.reverse]
  | ',' :: rest => cur.reverse :: cutCommas [] rest
  | ch :: rest => cutCommas (ch :: cur) rest

/-- The arguments of a line. -/
def readArgs (t : List Char) : List (List Char) := (cutCommas [] t).map trimSpaces

/-- The elements of a bit sequence, each `0` or `1`. -/
def readBits : List (List Char) → Option BitSeq
  | [] => some []
  | ['0'] :: rest => (readBits rest).map (false :: ·)
  | ['1'] :: rest => (readBits rest).map (true :: ·)
  | _ :: _ => none

/-- The sequence operand: square brackets, index 0 first; `[]` is the empty sequence (30_encoding.md R72). -/
def readSeq (t : List Char) : Option BitSeq :=
  match trimSpaces t with
  | '[' :: rest =>
    match rest.reverse with
    | ']' :: inner => if trimSpaces inner = [] then some [] else readBits (readArgs inner.reverse)
    | _ => none
  | _ => none

/-- `n, L`. -/
def readPair (mk : Nat → Nat → AsmLine) (n len : List Char) : Option AsmLine :=
  match readNumber n, readNumber len with
  | some n, some len => some (mk n len)
  | _, _ => none

/-- A line of text (30_encoding.md R72, R73). -/
def readLine (t : List Char) : Option AsmLine :=
  match trimSpaces t with
  | 'E' :: 'N' :: 'C' :: 'D' :: ' ' :: rest =>
    match readArgs rest with
    | [n, len] => readPair .encdDefault n len
    | [n, len, ['M', 'S', 'B']] => readPair (.encd · · .msbFirst) n len
    | [n, len, ['L', 'S', 'B']] => readPair (.encd · · .lsbFirst) n len
    | _ => none
  | 'E' :: 'N' :: 'C' :: 'S' :: ' ' :: rest =>
    match readArgs rest with
    | [n, len] => readPair .encs n len
    | _ => none
  | 'E' :: 'N' :: 'C' :: 'R' :: ' ' :: rest =>
    match readArgs rest with
    | [n, len] => readPair .encr n len
    | _ => none
  | 'D' :: 'E' :: 'C' :: 'D' :: ' ' :: rest => (readSeq rest).map .decd
  | _ => none

/-- The request of a line of text, or why there is none. -/
def assembleText (c : Config) (t : String) : Except AsmError Instr :=
  match readLine t.toList with
  | some a => a.assemble c
  | none => .error .notALine

/-- What a response says to the host that knows which request it answers (30_encoding.md R72, R75). -/
inductive Report where
  | okBits (s : BitSeq)
  | okSparse (cnt : Nat) (pos : List Nat)
  | okValue (v : Nat)
  | errInvalidLength
  /-- A status the codec never produces (93_implementation_defined.md U8). -/
  | notOfThisHardware
  deriving DecidableEq, Repr

/-- The report of the response to a request: the fields that 30_encoding.md R75 says its operation fills. -/
def reportOf {c : Config} (i : Instr) (r : Response c) : Report :=
  match r.status with
  | .invalidLength => .errInvalidLength
  | .ok =>
    match i with
    | .encd f => .okBits ((List.range f.len).map r.bits.getLsbD)
    | .encs _ => .okSparse r.cnt.toNat ((r.pos.toList.take r.cnt.toNat).map BitVec.toNat)
    | .encr f => .okBits ((List.range f.len).map r.bits.getLsbD)
    | .decd _ => .okValue r.value.toNat
  | _ => .notOfThisHardware

/-- Numbers in square brackets, index 0 first. -/
def writeList (l : List Nat) : String := "[" ++ String.intercalate "," (l.map toString) ++ "]"

/-- A response as text (30_encoding.md R72). -/
def Report.text : Report → String
  | .okBits s => "OK bits=" ++ writeList (s.map Bool.toNat)
  | .okSparse cnt pos => "OK cnt=" ++ toString cnt ++ " pos=" ++ writeList pos
  | .okValue v => "OK value=" ++ toString v
  | .errInvalidLength => "ERR InvalidLength"
  | .notOfThisHardware => "not a response of this hardware"

end Sys2Proof.Machine
end

