-- ==== Sys2Proof/Safety.lean ====
section
/-! DEFINITION. The terms claims are stated in: runs, the events of a run, and what a good state is. -/

namespace Sys2Proof.Machine

/-- `k` edges from `s`. -/
def run : Nat → State → Host.Outcome State Fault Refusal
  | 0, s => .next s
  | k + 1, s =>
    match step s with
    | .next t => run k t
    | .fault e => .fault e
    | .refused e => .refused e

/-- The events at the first `k` edges from `s`, up to a stop. -/
def trace : Nat → State → List Event
  | 0, _ => []
  | k + 1, s =>
    match step s with
    | .next t => s.event :: trace k t
    | _ => []

/-- The requests accepted in a stretch of events, in order (45_request_execution.md R146). -/
def acceptedIn (es : List Event) : List Instr :=
  es.filterMap fun e => match e with
    | .accept i => some i
    | _ => none

/-- The responses delivered in a stretch of events, in order (45_request_execution.md R146). -/
def deliveredIn (es : List Event) : List (Sigma Response) :=
  es.filterMap fun e => match e with
    | .deliver r => some r
    | _ => none

/-- The response the block holds, if it holds one. -/
def State.held (s : State) : List (Sigma Response) := if s.rspValid then [⟨s.cfg, s.rsp⟩] else []

/-- The events that move a request or a response: true for an accept, false for a deliver. -/
def transfersIn (es : List Event) : List Bool :=
  es.filterMap fun e => match e with
    | .accept _ => some true
    | .deliver _ => some false
    | _ => none

/-- Accepts and delivers take turns, the next one being an accept exactly when `a` is true. -/
def takeTurns : Bool → List Bool → Prop
  | _, [] => True
  | a, b :: rest => b = a ∧ takeTurns (!a) rest

/-- A held response is the response to some request word of the instance (10_state.md R33). -/
def State.Good (s : State) : Prop :=
  s.rspValid = true → ∃ q : BitVec s.cfg.reqw, s.rsp = respond s.cfg (decodeReq s.cfg q)

/-- `popcount(v)` (00_scope.md R13). -/
def popcount (v : Nat) : Nat := (List.range (v.log2 + 1)).countP fun i => v.testBit i

/-- Two requests with the same operation, the same `len` and the same fields the operation reads, bit by bit
(30_encoding.md R68). -/
def readSame : Instr → Instr → Prop
  | .encd f, .encd g => f.len = g.len ∧ f.order = g.order ∧ ∀ j < f.len, f.n.testBit j = g.n.testBit j
  | .encs f, .encs g => f.len = g.len ∧ ∀ j < f.len, f.n.testBit j = g.n.testBit j
  | .encr f, .encr g => f.len = g.len ∧ ∀ j < f.len, f.n.testBit j = g.n.testBit j
  | .decd f, .decd g => f.len = g.len ∧ ∀ j < f.len, f.bits.testBit j = g.bits.testBit j
  | _, _ => False

end Sys2Proof.Machine
end

