-- ==== Sys2Proof/Certificates/Slice0/Obligations.lean ====
section
/-! DEFINITION. The statements for the provers, each citing the rule of spec/ it formalises. None rests on the value of
a free draw (log entries 4 and 6): the register `rsp` of an idle block is only ever said to hold SOME response. -/

open Sys2Proof Sys2Proof.Machine

/-! ## Parameters and widths -/

/-- 00_scope.md R8: parameters outside `1 <= LMAX <= W` are refused, all others are an instance. -/
def Obligations.ParametersOutsideTheConstraintAreRefused : Prop :=
  ∀ w l : Nat,
    (1 ≤ l ∧ l ≤ w → ∃ c, Config.ofParams w l = .ok c ∧ c.w = w ∧ c.lmax = l) ∧
    (¬ (1 ≤ l ∧ l ≤ w) → ∃ e, Config.ofParams w l = .error e)

/-- 00_scope.md R9: `LENW = ceil(log2(LMAX+1))` and `IDXW = max(1, ceil(log2 LMAX))` are the fewest bits, at least one
for `IDXW`, that hold `0 .. LMAX` and `0 .. LMAX-1`; the widths of the flat words. -/
def Obligations.DerivedWidthsAreTheFewestBits : Prop :=
  ∀ c : Config,
    c.lenw = Nat.clog 2 (c.lmax + 1) ∧ c.idxw = max 1 (Nat.clog 2 c.lmax) ∧
    (∀ k, (∀ v ≤ c.lmax, v < 2 ^ k) ↔ c.lenw ≤ k) ∧
    (∀ k, (1 ≤ k ∧ ∀ v ≤ c.lmax - 1, v < 2 ^ k) ↔ c.idxw ≤ k) ∧
    c.reqw = 3 + c.lenw + c.w + c.lmax ∧
    c.rspw = 2 + c.lmax + c.w + c.lenw + c.lmax * c.idxw

/-- 00_scope.md R10: the numbers of the default and of the small instance. -/
def Obligations.DefaultAndSmallInstanceWidths : Prop :=
  (Config.default.w = 32 ∧ Config.default.lmax = 32 ∧ Config.default.lenw = 6 ∧ Config.default.idxw = 5 ∧
    Config.default.reqw = 73 ∧ Config.default.rspw = 232) ∧
  (Config.small.w = 8 ∧ Config.small.lmax = 8 ∧ Config.small.lenw = 4 ∧ Config.small.idxw = 3 ∧
    Config.small.reqw = 23 ∧ Config.small.rspw = 46)

/-! ## Encoding -/

/-- Words of 95_test_vectors.md (S1, S3, S2, S4, V-SM-1) decode to the requests they stand for (30_encoding.md R61). -/
def Obligations.SpecWordsDecodeAsWritten : Prop :=
  decodeReq Config.default 0xA24 = .encd ⟨.msbFirst, 4, 5, 0⟩ ∧
  decodeReq Config.default 0xA21 = .encs ⟨.lsbFirst, 4, 5, 0⟩ ∧
  decodeReq Config.default 0xA22 = .encr ⟨.lsbFirst, 4, 5, 0⟩ ∧
  decodeReq Config.default 0x140000000023 = .decd ⟨.lsbFirst, 4, 0, 0xA⟩ ∧
  decodeReq Config.small 0x52C4 = .encd ⟨.msbFirst, 8, 0xA5, 0⟩

/-- 30_encoding.md R64: the two low bits select the operation and all four values select one. -/
def Obligations.LowTwoBitsSelectTheOperation : Prop :=
  ∀ (c : Config) (q : BitVec c.reqw),
    (q.toNat &&& 3 = 0 → ∃ f, decodeReq c q = .encd f) ∧
    (q.toNat &&& 3 = 1 → ∃ f, decodeReq c q = .encs f) ∧
    (q.toNat &&& 3 = 2 → ∃ f, decodeReq c q = .encr f) ∧
    (q.toNat &&& 3 = 3 → ∃ f, decodeReq c q = .decd f)

/-- 30_encoding.md R60: every field is read from the wires the format gives it. -/
def Obligations.FieldsAreReadFromTheirWires : Prop :=
  ∀ (c : Config) (q : BitVec c.reqw),
    c.reqw = 3 + c.lenw + c.w + c.lmax ∧
    (∀ j, (decodeReq c q).op.testBit j = (decide (j < 2) && q.getLsbD j)) ∧
    ((decodeReq c q).fields.order = .msbFirst ↔ q.getLsbD 2 = true) ∧
    (∀ j, (decodeReq c q).fields.len.testBit j = (decide (j < c.lenw) && q.getLsbD (3 + j))) ∧
    (∀ j, (decodeReq c q).fields.n.testBit j = (decide (j < c.w) && q.getLsbD (3 + c.lenw + j))) ∧
    (∀ j, (decodeReq c q).fields.bits.testBit j = (decide (j < c.lmax) && q.getLsbD (3 + c.lenw + c.w + j)))

/-- Decoding the word of a well-formed request gives it back, in every instance, with every field at every value
(30_encoding.md R60, R64, R65). -/
def Obligations.DecodeOfEncodeIsTheRequest : Prop :=
  ∀ (c : Config) (i : Instr), i.wf c = true → decodeReq c (encode c i) = i

/-- Every request word is the word of the request it decodes to, which is well formed: no wire is dropped
(30_encoding.md R60, R71). -/
def Obligations.EncodeOfDecodeIsTheWord : Prop :=
  ∀ (c : Config) (q : BitVec c.reqw), (decodeReq c q).wf c = true ∧ encode c (decodeReq c q) = q

/-- 30_encoding.md R61: in the default and in the small instance, the numbers the fields are read as and the number the
word of a request is. -/
def Obligations.RequestWordAsANumber : Prop :=
  (∀ q : BitVec Config.default.reqw,
    let f := (decodeReq Config.default q).fields
    f.order.wire = q.toNat / 2 ^ 2 % 2 ∧ f.len = q.toNat / 2 ^ 3 % 2 ^ 6 ∧ f.n = q.toNat / 2 ^ 9 % 2 ^ 32 ∧
      f.bits = q.toNat / 2 ^ 41 % 2 ^ 32) ∧
  (∀ i : Instr, i.wf Config.default = true →
    (encode Config.default i).toNat =
      i.op + 4 * i.fields.order.wire + 8 * i.fields.len + 2 ^ 9 * i.fields.n + 2 ^ 41 * i.fields.bits) ∧
  (∀ q : BitVec Config.small.reqw,
    let f := (decodeReq Config.small q).fields
    f.order.wire = q.toNat / 2 ^ 2 % 2 ∧ f.len = q.toNat / 2 ^ 3 % 2 ^ 4 ∧ f.n = q.toNat / 2 ^ 7 % 2 ^ 8 ∧
      f.bits = q.toNat / 2 ^ 15 % 2 ^ 8) ∧
  (∀ i : Instr, i.wf Config.small = true →
    (encode Config.small i).toNat =
      i.op + 4 * i.fields.order.wire + 8 * i.fields.len + 2 ^ 7 * i.fields.n + 2 ^ 15 * i.fields.bits)

/-- 30_encoding.md R62: every field of a response drives the wires the format gives it. -/
def Obligations.ResponseFieldsDriveTheirWires : Prop :=
  ∀ (c : Config) (r : Response c),
    c.rspw = 2 + c.lmax + c.w + c.lenw + c.lmax * c.idxw ∧
    (∀ j < 2, (packResponse r).getLsbD j = r.status.code.testBit j) ∧
    (∀ j < c.lmax, (packResponse r).getLsbD (2 + j) = r.bits.getLsbD j) ∧
    (∀ j < c.w, (packResponse r).getLsbD (2 + c.lmax + j) = r.value.getLsbD j) ∧
    (∀ j < c.lenw, (packResponse r).getLsbD (2 + c.lmax + c.w + j) = r.cnt.getLsbD j) ∧
    (∀ k, ∀ h : k < c.lmax, ∀ j < c.idxw,
      (packResponse r).getLsbD (2 + c.lmax + c.w + c.lenw + k * c.idxw + j) = r.pos[k].getLsbD j)

/-- The response record and the response word carry the same: each is read back from the other (30_encoding.md R62). -/
def Obligations.ResponseWordRoundTrip : Prop :=
  ∀ c : Config,
    (∀ r : Response c, unpackResponse c (packResponse r) = r) ∧
    (∀ q : BitVec c.rspw, packResponse (unpackResponse c q) = q)

/-! ## The conversions -/

/-- 44_arithmetic_and_laws.md R129: the dense sequence has exactly `L` elements, and in the responses of `ENCD` and
`ENCR` every wire at or above `len` is 0. -/
def Obligations.DenseSequenceHasTheRequestedLength : Prop :=
  (∀ n L order, (denseEnc n L order).length = L) ∧
  (∀ (c : Config) (f : Fields) (j : Nat), f.len ≤ j →
    (respond c (.encd f)).bits.getLsbD j = false ∧ (respond c (.encr f)).bits.getLsbD j = false)

/-- 40_dense_encoder.md R90: the loop computes the closed form, `n[j]` at index `j` for LsbFirst and `n[L-1-j]` for
MsbFirst. -/
def Obligations.DenseLoopMeetsItsClosedForm : Prop :=
  ∀ n L j : Nat, j < L →
    (denseEnc n L .lsbFirst)[j]? = some (n / 2 ^ j % 2 == 1) ∧
    (denseEnc n L .msbFirst)[j]? = some (n / 2 ^ (L - 1 - j) % 2 == 1)

/-- 44_arithmetic_and_laws.md R130. -/
def Obligations.MsbFirstReversedIsLsbFirst : Prop :=
  ∀ n L : Nat, (denseEnc n L .msbFirst).reverse = denseEnc n L .lsbFirst

/-- 44_arithmetic_and_laws.md R131. -/
def Obligations.SparsePositionsAreTheDenseOnes : Prop :=
  ∀ n L i : Nat, i ∈ sparseEnc n L ↔ (denseEnc n L .lsbFirst)[i]? = some true

/-- 44_arithmetic_and_laws.md R132: the encoders see `n` only through `n mod 2^L`. -/
def Obligations.EncodersTruncateToLowBits : Prop :=
  ∀ n L : Nat,
    (∀ order, denseEnc n L order = denseEnc (n % 2 ^ L) L order) ∧ sparseEnc n L = sparseEnc (n % 2 ^ L) L

/-- 44_arithmetic_and_laws.md R128. -/
def Obligations.DecodingTheDenseEncodingReturnsLowBits : Prop :=
  ∀ n L : Nat,
    (n < 2 ^ L → denseDec (denseEnc n L .msbFirst) = n) ∧ denseDec (denseEnc n L .msbFirst) = n % 2 ^ L

/-- 44_arithmetic_and_laws.md R134: between sequences of length `L` and integers below `2^L` the MsbFirst encoder and
the decoder are inverse to each other. -/
def Obligations.DenseCodecIsABijection : Prop :=
  (∀ s : BitSeq, denseDec s < 2 ^ s.length ∧ denseEnc (denseDec s) s.length .msbFirst = s) ∧
  (∀ n L : Nat, n < 2 ^ L → (denseEnc n L .msbFirst).length = L ∧ denseDec (denseEnc n L .msbFirst) = n)

/-- 43_dense_decoder.md R118: (a) and (b) as R128 and R134, (c) decoding an LsbFirst encoding reverses the low bits,
and agrees with `n mod 2^L` exactly when they are a palindrome. -/
def Obligations.DecoderAgainstTheEncoders : Prop :=
  ∀ n L : Nat,
    denseDec (denseEnc n L .msbFirst) = n % 2 ^ L ∧
    (∀ s : BitSeq, s.length = L → denseEnc (denseDec s) L .msbFirst = s) ∧
    (∀ i, (denseDec (denseEnc n L .lsbFirst)).testBit i = (decide (i < L) && n.testBit (L - 1 - i))) ∧
    (denseDec (denseEnc n L .lsbFirst) = n % 2 ^ L ↔ ∀ i < L, n.testBit i = n.testBit (L - 1 - i))

/-- 43_dense_decoder.md R117: leading zeros contribute nothing, and one more element doubles the weight of all the
elements before it. -/
def Obligations.DecoderWeighsElementsFromTheEnd : Prop :=
  denseDec [] = 0 ∧
  ∀ s : BitSeq, denseDec (false :: s) = denseDec s ∧ ∀ b : Bit, denseDec (s ++ [b]) = 2 * denseDec s + b.toNat

/-- 41_sparse_encoder.md R101: the positions rise strictly and lie below `L`, there are `popcount(n mod 2^L)` of them,
and the powers of two at them sum to `n mod 2^L`. -/
def Obligations.SparseListMeetsItsInvariants : Prop :=
  ∀ n L : Nat,
    (sparseEnc n L).Pairwise (· < ·) ∧ (∀ p ∈ sparseEnc n L, p < L) ∧
    (sparseEnc n L).length = popcount (n % 2 ^ L) ∧
    ((sparseEnc n L).map (2 ^ ·)).sum = n % 2 ^ L

/-- 44_arithmetic_and_laws.md R135: the sparse list and `n mod 2^L` determine each other. -/
def Obligations.SparseListDeterminesLowBits : Prop :=
  (∀ n L : Nat, (sparseEnc n L).length = popcount (n % 2 ^ L) ∧ ((sparseEnc n L).map (2 ^ ·)).sum = n % 2 ^ L) ∧
  (∀ n m L : Nat, sparseEnc n L = sparseEnc m L ↔ n % 2 ^ L = m % 2 ^ L)

/-- 44_arithmetic_and_laws.md R139: the results for a smaller length are parts of those for a larger one. -/
def Obligations.ShorterResultsArePartsOfLongerOnes : Prop :=
  ∀ n K L : Nat, K ≤ L →
    denseEnc n K .lsbFirst = (denseEnc n L .lsbFirst).take K ∧
    denseEnc n K .msbFirst = (denseEnc n L .msbFirst).drop (L - K) ∧
    sparseEnc n K <+: sparseEnc n L ∧ sparseEnc n K = (sparseEnc n L).filter (· < K)

/-! ## Responses -/

/-- `ENCD` with a legal length completes: idle or not, the response register takes the dense sequence in the order the
request asks for, and nothing else of the state changes (40_dense_encoder.md R90; 20_memory.md R41, R42, R46). -/
def Obligations.EncdAnswersTheDenseSequence : Prop :=
  ∀ (f : Fields) (s : State), f.len ≤ s.cfg.lmax →
    ∃ r : Response s.cfg, exec (.encd f) s = .next { s with rspValid := true, rsp := r } ∧
      r.status = .ok ∧ r.value = 0 ∧ r.cnt = 0 ∧ (∀ k, ∀ h : k < s.cfg.lmax, r.pos[k] = 0) ∧
      ∀ j, r.bits.getLsbD j =
        (decide (j < f.len) && f.n.testBit (if f.order = .msbFirst then f.len - 1 - j else j))

/-- `ENCS` with a legal length completes: the register takes the rising list of the positions below `len` of the set
bits of `n`, with its count, each as the number it is, and nothing else of the state changes
(41_sparse_encoder.md R100; 20_memory.md R44, R46). -/
def Obligations.EncsAnswersTheSetPositions : Prop :=
  ∀ (f : Fields) (s : State), f.len ≤ s.cfg.lmax →
    ∃ (r : Response s.cfg) (p : List Nat),
      exec (.encs f) s = .next { s with rspValid := true, rsp := r } ∧
      r.status = .ok ∧ r.bits = 0 ∧ r.value = 0 ∧
      p.Pairwise (· < ·) ∧ (∀ i, i ∈ p ↔ i < f.len ∧ f.n.testBit i = true) ∧
      r.cnt.toNat = p.length ∧ ∀ k, ∀ h : k < s.cfg.lmax, (r.pos[k]).toNat = p.getD k 0

/-- `ENCR` with a legal length completes: bit `j` of `n` on wire `j` for `j < len`, whatever `order` says, and nothing
else of the state changes (42_reversed_dense_encoder.md R110). -/
def Obligations.EncrAnswersTheLsbFirstSequence : Prop :=
  ∀ (f : Fields) (s : State), f.len ≤ s.cfg.lmax →
    ∃ r : Response s.cfg, exec (.encr f) s = .next { s with rspValid := true, rsp := r } ∧
      r.status = .ok ∧ r.value = 0 ∧ r.cnt = 0 ∧ (∀ k, ∀ h : k < s.cfg.lmax, r.pos[k] = 0) ∧
      ∀ j, r.bits.getLsbD j = (decide (j < f.len) && f.n.testBit j)

/-- `DECD` with a legal length completes: `value[i] = bits[len-1-i]` for `i < len` and 0 above, and nothing else of the
state changes (43_dense_decoder.md R115). -/
def Obligations.DecdAnswersTheInteger : Prop :=
  ∀ (f : Fields) (s : State), f.len ≤ s.cfg.lmax →
    ∃ r : Response s.cfg, exec (.decd f) s = .next { s with rspValid := true, rsp := r } ∧
      r.status = .ok ∧ r.bits = 0 ∧ r.cnt = 0 ∧ (∀ k, ∀ h : k < s.cfg.lmax, r.pos[k] = 0) ∧
      r.value.toNat = denseDec (seqOperand f) ∧
      ∀ i, r.value.getLsbD i = (decide (i < f.len) && f.bits.testBit (f.len - 1 - i))

/-- 60_exceptions.md R152: InvalidLength is raised exactly when `len > LMAX`, for every operation and all other fields;
where `LMAX + 1` is a power of two no request word raises it. -/
def Obligations.InvalidLengthIsRaisedExactlyAboveCapacity : Prop :=
  (∀ (i : Instr) (s : State), ∃ r : Response s.cfg, exec i s = .next { s with rspValid := true, rsp := r } ∧
    (r.status = .invalidLength ↔ s.cfg.lmax < i.fields.len)) ∧
  (∀ (c : Config) (k : Nat), c.lmax + 1 = 2 ^ k →
    ∀ q : BitVec c.reqw, (respond c (decodeReq c q)).status ≠ .invalidLength)

/-- 60_exceptions.md R155: an illegal request, whichever it is, is answered by the response with status 1 and every
data field 0, which is held like any other. -/
def Obligations.IllegalRequestsGetTheErrorResponse : Prop :=
  ∀ (i : Instr) (s : State), s.cfg.lmax < i.fields.len →
    ∃ r : Response s.cfg, exec i s = .next { s with rspValid := true, rsp := r } ∧
      r.status.code = 1 ∧ r.bits = 0 ∧ r.value = 0 ∧ r.cnt = 0 ∧ ∀ k, ∀ h : k < s.cfg.lmax, r.pos[k] = 0

/-- 30_encoding.md R75: the fields an operation does not produce are 0, and so is every data field of a response whose
status is not 0. -/
def Obligations.FieldsNotProducedAreZero : Prop :=
  ∀ (c : Config) (i : Instr),
    let r := respond c i
    let noList := r.cnt = 0 ∧ ∀ k, ∀ h : k < c.lmax, r.pos[k] = 0
    (r.status ≠ .ok → r.bits = 0 ∧ r.value = 0 ∧ noList) ∧
    match i with
    | .encd f => r.value = 0 ∧ noList ∧ ∀ j, f.len ≤ j → r.bits.getLsbD j = false
    | .encs _ => r.bits = 0 ∧ r.value = 0 ∧ ∀ k, ∀ h : k < c.lmax, r.cnt.toNat ≤ k → r.pos[k] = 0
    | .encr f => r.value = 0 ∧ noList ∧ ∀ j, f.len ≤ j → r.bits.getLsbD j = false
    | .decd _ => r.bits = 0 ∧ noList

/-- 30_encoding.md R68: two requests that agree on the fields their operation reads have the same effect. -/
def Obligations.FieldsNotReadHaveNoEffect : Prop :=
  ∀ (i j : Instr) (s : State), readSame i j → exec i s = exec j s

/-- 42_reversed_dense_encoder.md R111: `ENCR` is `ENCD` with `order = 0`, legal length or not, whatever the don't-care
fields hold. -/
def Obligations.EncrIsEncdLsbFirst : Prop :=
  ∀ (f g : Fields) (s : State), f.len = g.len → f.n = g.n → g.order = .lsbFirst →
    exec (.encr f) s = exec (.encd g) s

/-- 44_arithmetic_and_laws.md R138: the fields of the responses read as numbers. -/
def Obligations.ResponseFieldsReadAsNumbers : Prop :=
  ∀ (c : Config) (f : Fields), f.len ≤ c.lmax →
    let msb : Response c := respond c (.encd { f with order := .msbFirst })
    let reversal (v : Nat) : Nat := denseDec ((List.range f.len).map v.testBit)
    (respond c (.encr f)).bits.toNat = f.n % 2 ^ f.len ∧
    (respond c (.encd { f with order := .lsbFirst })).bits.toNat = f.n % 2 ^ f.len ∧
    (∀ v j, (reversal v).testBit j = (decide (j < f.len) && v.testBit (f.len - 1 - j))) ∧
    (∀ v, reversal (reversal v) = v % 2 ^ f.len) ∧
    msb.bits.toNat = reversal (f.n % 2 ^ f.len) ∧
    (respond c (.decd f)).value.toNat = reversal (f.bits % 2 ^ f.len) ∧
    (∀ order n, (respond c (.decd ⟨order, f.len, n, msb.bits.toNat⟩)).value.toNat = f.n % 2 ^ f.len)

/-- 45_request_execution.md R140: what a request does at its accept event is to place `Exec` of it in the register, and
`Exec` checks the length before it looks at `op`. -/
def Obligations.EveryMeaningPlacesExecOfTheRequest : Prop :=
  ∀ (i : Instr) (s : State), exec i s = .next { s with rspValid := true, rsp := respond s.cfg i }

/-! ## The edge -/

/-- When a request is presented to an idle block out of reset, the step is the meaning of the request the port's word
decodes to, the host having moved on to its next inputs (45_request_execution.md R143, R144). -/
def Obligations.StepRunsTheDecodedRequest : Prop :=
  ∀ s : State, s.seenReset = true → s.sampled.rst = false → s.rspValid = false → s.sampled.reqValid = true →
    step s = exec (decodeReq s.cfg s.sampled.req) { s with inputs := s.inputs.tail }

/-- A word placed where the step looks for its next request is the request the step runs (log entry 9). -/
def Obligations.StepRunsThePlacedWord : Prop :=
  ∀ (s : State) (nbits w : Nat) (i : Instr), decodeWord s.cfg (w % 2 ^ nbits) = .ok i →
    step (s.withFetchWord nbits w) = exec i { s with seenReset := true, rspValid := false }

/-- 45_request_execution.md R144: the five cases of the next-state function, for a block that was reset once. Where
the spec leaves `rsp` unspecified, the register holds some response. (The host's listed inputs and the counter of free
values are the model's own, log entries 2 and 5.) -/
def Obligations.StepIsTheNextStateFunction : Prop :=
  ∀ s : State, s.seenReset = true →
    if s.sampled.rst = true then
      ∃ r k, step s = .next { s with inputs := s.inputs.tail, rspValid := false, rsp := r, freeCtr := k }
    else if s.rspValid = false ∧ s.sampled.reqValid = true then
      step s = .next { s with inputs := s.inputs.tail, rspValid := true, rsp := respond s.cfg (decodeReq s.cfg s.sampled.req) }
    else if s.rspValid = false then
      ∃ r k, step s = .next { s with inputs := s.inputs.tail, rspValid := false, rsp := r, freeCtr := k }
    else if s.sampled.rspReady = true then
      ∃ r k, step s = .next { s with inputs := s.inputs.tail, rspValid := false, rsp := r, freeCtr := k }
    else step s = .next { s with inputs := s.inputs.tail }

/-- 70_reset_and_hazards.md R170: an edge with `rst = 1` makes any state, also one of power-up, idle; no request is
ready to be taken in that cycle, and the edge is neither an accept nor a deliver. -/
def Obligations.ResetMakesAnyStateIdle : Prop :=
  ∀ s : State, s.sampled.rst = true →
    (∃ r k, step s = .next
      { s with inputs := s.inputs.tail, seenReset := true, rspValid := false, rsp := r, freeCtr := k }) ∧
    s.reqReady = false ∧ (∀ i, s.event ≠ .accept i) ∧ ∀ r, s.event ≠ .deliver r

/-- 10_state.md R34: the outputs in the cycle after a reset edge. -/
def Obligations.OutputsRightAfterReset : Prop :=
  ∀ s t : State, s.sampled.rst = true → step s = .next t → t.sampled.rst = false →
    t.rspValid = false ∧ t.reqReady = true ∧ t.rspOut = none

/-- The state right after reset is idle, ready, out of reset and in the default instance; that instance and the empty
list of inputs are the model's choice (log entries 1, 3). 10_state.md R30. -/
def Obligations.ResetStateIsIdle : Prop :=
  State.reset.rspValid = false ∧ State.reset.reqReady = true ∧ State.reset.rspOut = none ∧
    State.reset.seenReset = true ∧ State.reset.cfg = Config.default ∧ State.reset.inputs = []

/-- 45_request_execution.md R143: when a request is accepted, which one, and that one presented while `req_ready = 0`
leaves no trace. -/
def Obligations.AcceptExactlyWhenReadyAndPresented : Prop :=
  ∀ s : State, s.seenReset = true →
    ((∃ i, s.event = .accept i) ↔ s.sampled.rst = false ∧ s.rspValid = false ∧ s.sampled.reqValid = true) ∧
    ((∃ i, s.event = .accept i) ↔ s.sampled.reqValid = true ∧ s.reqReady = true) ∧
    (∀ i, s.event = .accept i → i = decodeReq s.cfg s.sampled.req) ∧
    (∀ (a : Inputs s.cfg) (rest : List (Inputs s.cfg)) (v : Bool) (q : BitVec s.cfg.reqw),
      s.inputs = a :: rest → s.reqReady = false →
      step { s with inputs := { a with reqValid := v, req := q } :: rest } = step s)

/-- 45_request_execution.md R145: when a response is delivered, and which one. -/
def Obligations.DeliverExactlyWhenHeldAndTaken : Prop :=
  ∀ s : State, s.seenReset = true →
    ((∃ r, s.event = .deliver r) ↔ s.sampled.rst = false ∧ s.rspValid = true ∧ s.sampled.rspReady = true) ∧
    (∀ r, s.event = .deliver r → r = ⟨s.cfg, s.rsp⟩)

/-- 45_request_execution.md R142: `req_ready` is 1 exactly when `rst = 0` and `rsp_valid = 0`, and the output `rsp` is the
register while it holds a response; it has no value otherwise (10_state.md R33). -/
def Obligations.ReadyExactlyWhenIdleAndNotReset : Prop :=
  ∀ s : State,
    (s.reqReady = true ↔ s.sampled.rst = false ∧ s.rspValid = false) ∧
    (s.rspValid = true → s.rspOut = some s.rsp) ∧ (s.rspValid = false → s.rspOut = none)

/-- 70_reset_and_hazards.md R178: the outputs depend on no input but for `rst` in `req_ready`. -/
def Obligations.OnlyResetReachesAnOutput : Prop :=
  ∀ (s : State) (ins : List (Inputs s.cfg)),
    let t : State := { s with inputs := ins }
    t.rspValid = s.rspValid ∧ t.rspOut = s.rspOut ∧
    (t.sampled.rst = s.sampled.rst → t.reqReady = s.reqReady)

/-- 70_reset_and_hazards.md R176: a held response stays as it is; `rsp_valid` falls, and `req_ready` rises, only at or
after a deliver or a reset. -/
def Obligations.HeldResponseIsStable : Prop :=
  ∀ s t : State, step s = .next t →
    (s.rspValid = true → s.sampled.rst = false → s.sampled.rspReady = false →
      t.rspValid = true ∧ (⟨t.cfg, t.rsp⟩ : Sigma Response) = ⟨s.cfg, s.rsp⟩) ∧
    (s.rspValid = true → t.rspValid = false → s.event = .reset ∨ s.event = .deliver ⟨s.cfg, s.rsp⟩) ∧
    (s.reqReady = false → t.reqReady = true → s.event = .reset ∨ s.event = .deliver ⟨s.cfg, s.rsp⟩)

/-- 70_reset_and_hazards.md R182, with R181: the edge after an accept accepts nothing, holds the response to the
accepted request, and delivers it if the host is ready. -/
def Obligations.AcceptIsFollowedByItsResponse : Prop :=
  ∀ (s t : State) (i : Instr), s.event = .accept i → step s = .next t →
    t.rspValid = true ∧ (⟨t.cfg, t.rsp⟩ : Sigma Response) = ⟨s.cfg, respond s.cfg i⟩ ∧
    (∀ j, t.event ≠ .accept j) ∧
    (t.sampled.rst = false → t.sampled.rspReady = true → t.event = .deliver ⟨s.cfg, respond s.cfg i⟩)

/-- 10_state.md R20: the response to a request does not depend on anything else the two blocks have been through. -/
def Obligations.ResponseDependsOnTheRequestAlone : Prop :=
  ∀ (s t s' t' : State) (i : Instr), s.cfg = t.cfg → s.event = .accept i → t.event = .accept i →
    step s = .next s' → step t = .next t' → (⟨s'.cfg, s'.rsp⟩ : Sigma Response) = ⟨t'.cfg, t'.rsp⟩

/-- A step never faults, and is refused exactly at an edge without `rst` before the first reset; that refusal is the
model's reading of 10_state.md R31 (log entry 6). -/
def Obligations.StepStopsOnlyBeforeTheFirstReset : Prop :=
  ∀ s : State,
    (s.seenReset = false ∧ s.sampled.rst = false → step s = .refused .beforeFirstReset) ∧
    (s.seenReset = true ∨ s.sampled.rst = true → ∃ t, step s = .next t)

/-- No step changes the instance (10_state.md R32); the model's own fields follow the model's choices: a step that goes
on leaves the block reset once (log entry 6; 70_reset_and_hazards.md R173) and uses up one listed input, the list
being the model's form of what the host drives (log entry 2). -/
def Obligations.StepKeepsTheInstance : Prop :=
  ∀ s t : State, step s = .next t → t.cfg = s.cfg ∧ t.seenReset = true ∧
    t.inputs.length = s.inputs.length - 1

/-! ## Runs -/

/-- A run from right after reset never stops, whatever the host drives, in every instance (70_reset_and_hazards.md R172). -/
def Obligations.RunsFromResetNeverStop : Prop :=
  ∀ (c : Config) (ins : List (Inputs c)) (k : Nat),
    ∃ t, run k { State.resetOf c with inputs := ins } = .next t ∧ t.cfg = c

/-- 10_state.md R33: every edge keeps a held response the response to a request word of the instance. -/
def Obligations.HeldResponseAnswersARequest : Prop :=
  ∀ s t : State, s.Good → step s = .next t → t.Good

/-- The invariant holds right after reset (10_state.md R30). -/
def Obligations.ResetStateIsGood : Prop := State.reset.Good

/-- In a good state the host, in a cycle in which it may read `rsp` (70_reset_and_hazards.md R175 O2), reads a response
with status 0 or 1 (30_encoding.md R74). -/
def Obligations.ReadStatusIsOkOrInvalidLength : Prop :=
  ∀ s : State, s.Good → s.mayReadRsp = true →
    ∃ r, s.rspOut = some r ∧ (r.status.code = 0 ∨ r.status.code = 1)

/-- 45_request_execution.md R146: from an edge with `rst = 1` up to the next one, accepts and delivers take turns,
starting with an accept, and the responses delivered, followed by the one still held, are `Exec` of the requests
accepted, in order; a reset that ends the run discards the one still held. -/
def Obligations.ResponsesAnswerRequestsInOrder : Prop :=
  ∀ (s₀ s t : State) (k : Nat), s₀.sampled.rst = true → step s₀ = .next s → run k s = .next t →
    Event.reset ∉ trace k s →
    takeTurns true (transfersIn (trace k s)) ∧
    (acceptedIn (trace k s)).map (fun i => (⟨s₀.cfg, respond s₀.cfg i⟩ : Sigma Response)) =
      deliveredIn (trace k s) ++ t.held ∧
    (t.sampled.rst = true → trace (k + 1) s = trace k s ++ [.reset] ∧ ∀ u, step t = .next u → u.held = [])

/-! ## Notation -/

/-- 30_encoding.md R72, R73: an assembled request is well formed and its don't-care fields are 0; `ENCD` without an
order is MsbFirst. -/
def Obligations.AssembledRequestsZeroTheirDontCares : Prop :=
  ∀ (c : Config) (a : AsmLine) (i : Instr), a.assemble c = .ok i →
    i.wf c = true ∧
    match a with
    | .encd n len order => i = .encd ⟨order, len, n, 0⟩
    | .encdDefault n len => i = .encd ⟨.msbFirst, len, n, 0⟩
    | .encs n len => i = .encs ⟨.lsbFirst, len, n, 0⟩
    | .encr n len => i = .encr ⟨.lsbFirst, len, n, 0⟩
    | .decd s => ∃ b, i = .decd ⟨.lsbFirst, s.length, 0, b⟩ ∧
        ∀ j, b.testBit j = (decide (j < c.lmax) && s.getD j false)
end

