-- ==== Sys2Proof/Laws/Loops.lean ====
section
/-! SUPPORT. The invariants of the three loops. -/

namespace Sys2Proof.Machine

/-- The dense loop changes no length (40_dense_encoder.md R90). -/
@[simp] theorem denseEncLoop_length (order : BitOrder) (L k : Nat) : ∀ (i q : Nat) (s : BitSeq),
    (denseEncLoop order L k i q s).length = s.length := by
  induction k with
  | zero => intro i q s; rfl
  | succ k ih => intro i q s; simp [denseEncLoop, ih]

/-- The bit the loop takes at a step, as a bit of the quotient (44_arithmetic_and_laws.md R125). -/
theorem testBit_succ_div (q j : Nat) : q.testBit (j + 1) = (q / 2).testBit j := Nat.testBit_add_one q j

/-- The LsbFirst loop from step `i` on writes the `k` low bits of the quotient at the indices from `i` on. -/
theorem denseEncLoop_lsbFirst (L k : Nat) : ∀ (i q : Nat) (s : BitSeq) (j : Nat),
    (denseEncLoop .lsbFirst L k i q s)[j]? =
      if i ≤ j ∧ j < i + k ∧ j < s.length then some (q.testBit (j - i)) else s[j]? := by
  induction k with
  | zero => intro i q s j; simp only [denseEncLoop]; split <;> first | rfl | omega
  | succ k ih =>
    intro i q s j
    simp only [denseEncLoop, placeOf, ih, List.length_set, List.getElem?_set]
    rcases Nat.lt_trichotomy i j with h | h | h
    · have e : j - i = (j - (i + 1)) + 1 := by omega
      rw [e, testBit_succ_div]
      split <;> split <;> first | rfl | omega | skip
      all_goals split <;> first | rfl | omega
    · subst h
      by_cases hl : i < s.length
      · simp [hl, Nat.testBit_zero, Bool.beq_eq_decide_eq]
      · simp [hl]
    · split <;> split <;> first | rfl | omega | skip
      all_goals split <;> first | rfl | omega

/-- The MsbFirst loop from step `i` on writes the `k` low bits of the quotient at the indices from `L-1-i` down. -/
theorem denseEncLoop_msbFirst (L k : Nat) : ∀ (i q : Nat) (s : BitSeq) (j : Nat), s.length = L → i + k ≤ L →
    (denseEncLoop .msbFirst L k i q s)[j]? =
      if j + i < L ∧ L ≤ j + i + k then some (q.testBit (L - 1 - j - i)) else s[j]? := by
  induction k with
  | zero => intro i q s j _ _; simp only [denseEncLoop]; split <;> first | rfl | omega
  | succ k ih =>
    intro i q s j hs hk
    simp only [denseEncLoop, placeOf]
    rw [ih (i + 1) (q / 2) _ j (by simpa using hs) (by omega), List.getElem?_set]
    rcases Nat.lt_trichotomy (j + i + 1) L with h | h | h
    · have e : L - 1 - j - i = (L - 1 - j - (i + 1)) + 1 := by omega
      rw [e, testBit_succ_div]
      split <;> split <;> first | rfl | omega | skip
      all_goals split <;> first | rfl | omega
    · have e : L - 1 - i = j := by omega
      have e0 : L - 1 - j - i = 0 := by omega
      rw [if_neg (by omega), if_pos e, if_pos (by omega), if_pos (by omega), e0, Nat.testBit_zero]
      rfl
    · split <;> split <;> first | rfl | omega | skip
      all_goals split <;> first | rfl | omega

/-- The sparse loop from position `i` on appends the positions of the `k` low set bits of the quotient, counted from
`i` (41_sparse_encoder.md R100). -/
theorem sparseEncLoop_eq (k : Nat) : ∀ (i q : Nat) (p : List Nat),
    sparseEncLoop k i q p = p ++ (((List.range k).filter (q.testBit ·)).map (i + ·)) := by
  induction k with
  | zero => intro i q p; simp [sparseEncLoop]
  | succ k ih =>
    intro i q p
    rw [sparseEncLoop, ih, List.range_succ_eq_map, List.filter_cons, List.filter_map]
    have e : ((fun j => q.testBit j) ∘ Nat.succ) = fun j => (q / 2).testBit j := by
      funext j; exact testBit_succ_div q j
    rw [e]
    by_cases h : q % 2 = 1
    · simp [h, Nat.testBit_zero, Function.comp_def]; omega
    · simp [h, Nat.testBit_zero, Function.comp_def]; omega

/-- The decoder's loop over a sequence with one more element, that element outside the loop's range. -/
theorem denseDecLoop_append (s t : BitSeq) (k : Nat) : ∀ sum power : Nat, k ≤ s.length →
    denseDecLoop (s ++ t) k sum power = denseDecLoop s k sum power := by
  induction k with
  | zero => intro sum power _; rfl
  | succ k ih =>
    intro sum power hk
    rw [denseDecLoop, denseDecLoop, ih _ _ (by omega)]
    simp [List.getElem?_append_left (show k < s.length by omega)]

/-- The decoder's running sum and power come out of the loop (43_dense_decoder.md R115). -/
theorem denseDecLoop_eq (s : BitSeq) (k : Nat) : ∀ sum power : Nat,
    denseDecLoop s k sum power = sum + 2 ^ power * denseDecLoop s k 0 0 := by
  induction k with
  | zero => intro sum power; simp [denseDecLoop]
  | succ k ih =>
    intro sum power
    rw [denseDecLoop, ih, denseDecLoop, ih (0 + _) (0 + 1)]
    ring

end Sys2Proof.Machine
end

