-- ==== Sys2Proof/Laws/State.lean ====
section
/-! SUPPORT. One lemma per field per update of the state. -/

namespace Sys2Proof.Machine

@[simp] theorem State.advance_cfg (s : State) : s.advance.cfg = s.cfg := rfl
@[simp] theorem State.advance_inputs (s : State) : s.advance.inputs = s.inputs.tail := rfl
@[simp] theorem State.advance_seenReset (s : State) : s.advance.seenReset = s.seenReset := rfl
@[simp] theorem State.advance_rspValid (s : State) : s.advance.rspValid = s.rspValid := rfl
@[simp] theorem State.advance_rsp (s : State) : s.advance.rsp = s.rsp := rfl
@[simp] theorem State.advance_freeCtr (s : State) : s.advance.freeCtr = s.freeCtr := rfl

@[simp] theorem State.accept_cfg (s : State) (r : Response s.cfg) : (s.accept r).cfg = s.cfg := rfl
@[simp] theorem State.accept_inputs (s : State) (r : Response s.cfg) : (s.accept r).inputs = s.inputs := rfl
@[simp] theorem State.accept_seenReset (s : State) (r : Response s.cfg) : (s.accept r).seenReset = s.seenReset := rfl
@[simp] theorem State.accept_rspValid (s : State) (r : Response s.cfg) : (s.accept r).rspValid = true := rfl
@[simp] theorem State.accept_rsp (s : State) (r : Response s.cfg) : (s.accept r).rsp = r := rfl
@[simp] theorem State.accept_freeCtr (s : State) (r : Response s.cfg) : (s.accept r).freeCtr = s.freeCtr := rfl

@[simp] theorem State.release_cfg (s : State) : s.release.cfg = s.cfg := rfl
@[simp] theorem State.release_inputs (s : State) : s.release.inputs = s.inputs := rfl
@[simp] theorem State.release_seenReset (s : State) : s.release.seenReset = s.seenReset := rfl
@[simp] theorem State.release_rspValid (s : State) : s.release.rspValid = false := rfl
@[simp] theorem State.release_rsp (s : State) : s.release.rsp = unpackResponse s.cfg (s.cfg.freeRsp s.freeCtr) := rfl
@[simp] theorem State.release_freeCtr (s : State) : s.release.freeCtr = s.freeCtr + 1 := rfl

@[simp] theorem State.onReset_cfg (s : State) : s.onReset.cfg = s.cfg := rfl
@[simp] theorem State.onReset_inputs (s : State) : s.onReset.inputs = s.inputs.tail := rfl
@[simp] theorem State.onReset_seenReset (s : State) : s.onReset.seenReset = true := rfl
@[simp] theorem State.onReset_rspValid (s : State) : s.onReset.rspValid = false := rfl
@[simp] theorem State.onReset_rsp (s : State) : s.onReset.rsp = unpackResponse s.cfg (s.cfg.freeRsp s.freeCtr) := rfl
@[simp] theorem State.onReset_freeCtr (s : State) : s.onReset.freeCtr = s.freeCtr + 1 := rfl

@[simp] theorem State.onIdle_cfg (s : State) : s.onIdle.cfg = s.cfg := rfl
@[simp] theorem State.onIdle_inputs (s : State) : s.onIdle.inputs = s.inputs.tail := rfl
@[simp] theorem State.onIdle_seenReset (s : State) : s.onIdle.seenReset = s.seenReset := rfl
@[simp] theorem State.onIdle_rspValid (s : State) : s.onIdle.rspValid = false := rfl
@[simp] theorem State.onIdle_rsp (s : State) : s.onIdle.rsp = unpackResponse s.cfg (s.cfg.freeRsp s.freeCtr) := rfl
@[simp] theorem State.onIdle_freeCtr (s : State) : s.onIdle.freeCtr = s.freeCtr + 1 := rfl

@[simp] theorem State.onDeliver_cfg (s : State) : s.onDeliver.cfg = s.cfg := rfl
@[simp] theorem State.onDeliver_inputs (s : State) : s.onDeliver.inputs = s.inputs.tail := rfl
@[simp] theorem State.onDeliver_seenReset (s : State) : s.onDeliver.seenReset = s.seenReset := rfl
@[simp] theorem State.onDeliver_rspValid (s : State) : s.onDeliver.rspValid = false := rfl
@[simp] theorem State.onDeliver_rsp (s : State) : s.onDeliver.rsp = unpackResponse s.cfg (s.cfg.freeRsp s.freeCtr) := rfl
@[simp] theorem State.onDeliver_freeCtr (s : State) : s.onDeliver.freeCtr = s.freeCtr + 1 := rfl

@[simp] theorem State.onHold_cfg (s : State) : s.onHold.cfg = s.cfg := rfl
@[simp] theorem State.onHold_inputs (s : State) : s.onHold.inputs = s.inputs.tail := rfl
@[simp] theorem State.onHold_seenReset (s : State) : s.onHold.seenReset = s.seenReset := rfl
@[simp] theorem State.onHold_rspValid (s : State) : s.onHold.rspValid = s.rspValid := rfl
@[simp] theorem State.onHold_rsp (s : State) : s.onHold.rsp = s.rsp := rfl
@[simp] theorem State.onHold_freeCtr (s : State) : s.onHold.freeCtr = s.freeCtr := rfl

@[simp] theorem State.withFetchWord_cfg (s : State) (nbits w : Nat) : (s.withFetchWord nbits w).cfg = s.cfg := rfl
@[simp] theorem State.withFetchWord_inputs (s : State) (nbits w : Nat) : (s.withFetchWord nbits w).inputs = presentWord s.cfg nbits w :: s.inputs := rfl
@[simp] theorem State.withFetchWord_seenReset (s : State) (nbits w : Nat) : (s.withFetchWord nbits w).seenReset = true := rfl
@[simp] theorem State.withFetchWord_rspValid (s : State) (nbits w : Nat) : (s.withFetchWord nbits w).rspValid = false := rfl
@[simp] theorem State.withFetchWord_rsp (s : State) (nbits w : Nat) : (s.withFetchWord nbits w).rsp = s.rsp := rfl
@[simp] theorem State.withFetchWord_freeCtr (s : State) (nbits w : Nat) : (s.withFetchWord nbits w).freeCtr = s.freeCtr := rfl

@[simp] theorem State.resetOf_cfg (c : Config) : (State.resetOf c).cfg = c := rfl
@[simp] theorem State.resetOf_inputs (c : Config) : (State.resetOf c).inputs = [] := rfl
@[simp] theorem State.resetOf_seenReset (c : Config) : (State.resetOf c).seenReset = true := rfl
@[simp] theorem State.resetOf_rspValid (c : Config) : (State.resetOf c).rspValid = false := rfl
@[simp] theorem State.resetOf_rsp (c : Config) : (State.resetOf c).rsp = unpackResponse c (c.freeRsp 0) := rfl
@[simp] theorem State.resetOf_freeCtr (c : Config) : (State.resetOf c).freeCtr = 1 := rfl
@[simp] theorem State.powerUp_cfg (c : Config) : (State.powerUp c).cfg = c := rfl
@[simp] theorem State.powerUp_seenReset (c : Config) : (State.powerUp c).seenReset = false := rfl
@[simp] theorem State.powerUp_inputs (c : Config) : (State.powerUp c).inputs = [] := rfl
@[simp] theorem State.powerUp_rspValid (c : Config) : (State.powerUp c).rspValid = c.freePowerUpValid := rfl
@[simp] theorem State.powerUp_rsp (c : Config) : (State.powerUp c).rsp = unpackResponse c c.freePowerUpRsp := rfl
@[simp] theorem State.powerUp_freeCtr (c : Config) : (State.powerUp c).freeCtr = 0 := rfl

/-- The first reset edge after power-up leads to the state the model calls right after reset (10_state.md R30, R31;
the shared draw of `rsp` is the model's choice, log entry 5). -/
theorem State.powerUp_onReset (c : Config) : (State.powerUp c).onReset = State.resetOf c := rfl

end Sys2Proof.Machine
end

