-- ==== Sys2Proof/Laws/Ops.lean ====
section
/-! SUPPORT. What each shared operation does, said once. -/

namespace Sys2Proof.Machine

/-! ## Slots and wires -/

/-- Slot `k` holds `f k`. -/
@[simp] theorem slotsOf_getElem {α : Type} (n : Nat) (f : Nat → α) (k : Nat) (h : k < n) : (slotsOf n f)[k] = f k := by
  simp [slotsOf]

/-- The slots as a list. -/
theorem slotsOf_toList {α : Type} (n : Nat) (f : Nat → α) : (slotsOf n f).toList = (List.range n).map f := rfl

/-- A bundle of `k` wires carries element `j` on wire `j`, and 0 above the sequence (20_memory.md R42, R46). -/
@[simp] theorem wires_getLsbD (k : Nat) (s : BitSeq) (j : Nat) :
    (wires k s).getLsbD j = (decide (j < k) && s.getD j false) := by
  simp [wires, BitVec.getLsbD_setWidth, BitVec.getLsbD_ofBoolListLE]

/-- Slot `k` holds entry `k`, and 0 above the list (20_memory.md R44, R46). -/
@[simp] theorem slots_getElem (c : Config) (p : List Nat) (k : Nat) (h : k < c.lmax) :
    (slots c p)[k] = BitVec.ofNat c.idxw (p.getD k 0) := by
  simp [slots]

/-! ## The length check -/

/-- A legal request gets its result (30_encoding.md R69). -/
theorem checked_of_legal {c : Config} {f : Fields} (h : f.len ≤ c.lmax) (r : Response c) : checked c f r = r := by
  simp [checked, checkLength, Nat.not_lt.mpr h]

/-- An illegal request gets the error response (60_exceptions.md R152). -/
theorem checked_of_illegal {c : Config} {f : Fields} (h : c.lmax < f.len) (r : Response c) :
    checked c f r = errorResponse c .invalidLength := by
  simp [checked, checkLength, h]

/-! ## The edge -/

/-- Everything an edge that answers a next state can do (45_request_execution.md R144). -/
theorem step_cases {s t : State} (h : step s = .next t) :
    (s.event = .reset ∧ s.sampled.rst = true ∧ t = s.onReset) ∨
    (s.event = .deliver ⟨s.cfg, s.rsp⟩ ∧ s.sampled.rst = false ∧ s.seenReset = true ∧ s.rspValid = true ∧
      s.sampled.rspReady = true ∧ t = s.onDeliver) ∨
    (s.event = .hold ∧ s.sampled.rst = false ∧ s.seenReset = true ∧ s.rspValid = true ∧
      s.sampled.rspReady = false ∧ t = s.onHold) ∨
    (s.event = .accept (decodeReq s.cfg s.sampled.req) ∧ s.sampled.rst = false ∧ s.seenReset = true ∧
      s.rspValid = false ∧ s.sampled.reqValid = true ∧
      exec (decodeReq s.cfg s.sampled.req) s.advance = .next t) ∨
    (s.event = .idle ∧ s.sampled.rst = false ∧ s.seenReset = true ∧ s.rspValid = false ∧
      s.sampled.reqValid = false ∧ t = s.onIdle) := by
  cases h1 : s.sampled.rst <;> cases h2 : s.seenReset <;> cases h3 : s.rspValid <;>
    cases h4 : s.sampled.rspReady <;> cases h5 : s.sampled.reqValid <;>
    simp [step, State.event, h1, h2, h3, h4, h5] at h ⊢ <;> first | exact h.symm | exact h

end Sys2Proof.Machine
end

