-- ==== Sys2Proof/Laws/PerInstr.lean ====
section
/-! SUPPORT. Statements about every instruction as syntax, one lemma per constructor. -/

namespace Sys2Proof.Laws.OpField

/-- The word of a request, masked with 3, is the match value of its row of spec/opcode_table.json, in every instance
(30_encoding.md R64, R76). -/
def Statement (i : Instr) : Prop :=
  ∀ c : Config, (encode c i).toNat &&& 3 =
    match i with
    | .encd _ => 0
    | .encs _ => 1
    | .encr _ => 2
    | .decd _ => 3

/-- Everything beside `op` stands at bit 2 or above. -/
theorem encode_low_bits (c : Config) (i : Instr) : (encode c i).toNat &&& 3 = i.op % 4 := by
  have hmask : ∀ v : Nat, v &&& 3 = v % 4 := fun v => Nat.and_two_pow_sub_one_eq_mod v 2
  have hw : 4 ∣ 2 ^ c.reqw := pow_dvd_pow 2 (by unfold Config.reqw; omega : 2 ≤ c.reqw)
  have hn : 2 ^ (3 + c.lenw) = 4 * (2 * 2 ^ c.lenw) := by rw [pow_add]; ring
  have hb : 2 ^ (3 + c.lenw + c.w) = 4 * (2 * 2 ^ c.lenw * 2 ^ c.w) := by rw [pow_add, pow_add]; ring
  rw [hmask, encode, BitVec.toNat_ofNat, Nat.mod_mod_of_dvd _ hw, wordOfInstr, hn, hb]
  simp only [Nat.mul_assoc]
  omega

theorem encd (f : Fields) : Statement (.encd f) := fun c => encode_low_bits c _

theorem encs (f : Fields) : Statement (.encs f) := fun c => encode_low_bits c _

theorem encr (f : Fields) : Statement (.encr f) := fun c => encode_low_bits c _

theorem decd (f : Fields) : Statement (.decd f) := fun c => encode_low_bits c _

end Sys2Proof.Laws.OpField
end

