-- ==== Sys2Proof/Tests/Slice0.lean ====
section
/-! SUPPORT. Small tests. Expected values are from spec/95_test_vectors.md or worked out by hand from the rules named. -/

namespace Sys2Proof.Tests

open Sys2Proof Sys2Proof.Machine

/-! ## Well-formedness and parameters -/

/-- R66: 64 does not fit the 6 wires of `len`. -/
theorem test_wf_refuses_len : Instr.wf .default (.encd ⟨.msbFirst, 64, 0, 0⟩) = false := by decide

/-- R8: `2^32` is no 32-bit number. -/
theorem test_wf_refuses_n : Instr.wf .default (.encs ⟨.lsbFirst, 4, 2 ^ 32, 0⟩) = false := by decide

/-- R60: `bits` has no wire 32. -/
theorem test_wf_refuses_bits : Instr.wf .default (.decd ⟨.lsbFirst, 4, 0, 2 ^ 32⟩) = false := by decide

/-- An illegal length that the wires can hold is well formed (R69). -/
theorem test_wf_admits_illegal_len :
    Instr.wf .default (.encr ⟨.lsbFirst, 63, 5, 0⟩) = true ∧ Instr.legal .default (.encr ⟨.lsbFirst, 33, 5, 0⟩) = false := by
  decide

/-- R8: `LMAX = 0` and `LMAX > W` are refused, `1 <= LMAX <= W` is not. -/
theorem test_parameters :
    Config.ofParams 8 0 = .error .lmaxZero ∧ Config.ofParams 8 9 = .error .lmaxAboveW ∧
      (Config.ofParams 1 1).toOption.isSome = true := by decide

/-- R9 with `LMAX = 1`: one bit for `len`, one for a position. -/
theorem test_widths_at_one : (⟨1, 1, by decide, by decide⟩ : Config).lenw = 1 ∧
    (⟨1, 1, by decide, by decide⟩ : Config).idxw = 1 := by decide

/-! ## Decoding words written out from 30_encoding.md R61: bits, n, len, order, op -/

theorem test_decode_encd : decodeTableWord 80 0b101_000100_1_00 = some (.encd ⟨.msbFirst, 4, 5, 0⟩) := by decide

theorem test_decode_encs : decodeTableWord 80 0b1_00000000000000000000000000000110_100000_0_01 =
    some (.encs ⟨.lsbFirst, 32, 6, 1⟩) := by decide

theorem test_decode_encr : decodeTableWord 80 0b11_000001_1_10 = some (.encr ⟨.msbFirst, 1, 3, 0⟩) := by decide

theorem test_decode_decd : decodeTableWord 80 0b1010_00000000000000000000000000000000_000100_0_11 =
    some (.decd ⟨.lsbFirst, 4, 0, 0b1010⟩) := by decide

/-- A number with a bit above the 73 wires is no request word. -/
theorem test_decode_refuses_wide_word : decodeTableWord 80 (2 ^ 73) = none := by decide

theorem test_encode : (encode .default (.decd ⟨.lsbFirst, 4, 0, 0xA⟩)).toNat = 0x140000000023 ∧
    (encode .small (.encd ⟨.msbFirst, 8, 0xA5, 0⟩)).toNat = 0x52C4 := by decide

/-! ## One accepting edge -/

/-- The flat response word held after the edge at which an instance right after reset is presented a request word. -/
def answer (c : Config) (q : Nat) : Option Nat :=
  match step ((State.resetOf c).withFetchWord c.reqw q) with
  | .next t => if t.rspValid then some (wordOfResponse t.rsp) else none
  | _ => none

/-- S1, V-ENCD-7 (truncation), V-ENCD-11 (illegal length), V-ENCD-12 (don't-care `bits`). -/
theorem test_encd_msb : answer .default 0xA24 = some 0x28 ∧ answer .default 0x1BD5B7DDE44 = some 0x3DC ∧
    answer .default 0xBFC = some 0x1 ∧ answer .default 0x1FFFFFFFE0000000A24 = some 0x28 := by decide

/-- V-ENCD-1, V-ENCD-4 (full length), V-ENCD-2 (`len = 0`), V-SM-5. -/
theorem test_encd_lsb : answer .default 0xA20 = some 0x14 ∧ answer .default 0x1BD5B7DDF00 = some 0x37AB6FBBC ∧
    answer .default 0x1BD5B7DDE04 = some 0x0 ∧ answer .small 0x52CC = some 0x1 := by decide

/-- V-ENCS-7, V-ENCS-9 (90_conflicts.md C2), V-ENCS-3, V-ENCS-5 (don't-care fields). -/
theorem test_encs : answer .default 0x1BD5B7DDE41 = some 0x1CC5188201C0000000000000000 ∧
    answer .default 0x1811 = some 0x0 ∧ answer .default 0x10000000301 = some 0x3E0080000000000000000 ∧
    answer .default 0x24680000000A25 = some 0x40080000000000000000 := by decide

/-- V-SM-6: every slot used. -/
theorem test_encs_all_slots : answer .small 0x7FC1 = some 0x3EB1A2200000 := by decide

/-- V-ENCR-1 (`order` ignored), V-ENCR-5, V-ENCR-4, V-ENCR-6. -/
theorem test_encr : answer .default 0xA26 = some 0x14 ∧ answer .default 0xC42 = some 0x18 ∧
    answer .default 0x1212 = some 0x4 ∧ answer .default 0xB0A = some 0x1 := by decide

/-- V-DECD-8 (wires above `len`), V-DECD-13 (full width), V-DECD-4, V-DECD-11. -/
theorem test_decd : answer .default 0x1F40000000023 = some 0x1400000000 ∧
    answer .default 0x1EEFB6AF60000000103 = some 0x37AB6FBBC00000000 ∧
    answer .default 0x2000000001B = some 0x1000000000 ∧ answer .default 0x14000000010B = some 0x1 := by decide

/-! ## The other edges (95_test_vectors.md section 2.6) -/

/-- The default instance after reset, with one edge's inputs; holding the response to `held`, if one is given. -/
def block (held : Option Instr) (rst reqValid : Bool) (q : Nat) (rspReady : Bool) : State :=
  let s : State := { State.reset with inputs := [⟨rst, reqValid, BitVec.ofNat _ q, rspReady⟩] }
  match held with
  | some i => s.accept (respond s.cfg i)
  | none => s

/-- `ENCD 5, 4, MSB`. -/
def sample : Instr := .encd ⟨.msbFirst, 4, 5, 0⟩

/-- Whether a response is held after the edge, and its flat word if so. -/
def after (s : State) : Option (Option Nat) :=
  match step s with
  | .next t => some (t.rspOut.map wordOfResponse)
  | _ => none

/-- V-ST-1, V-ST-7: reset discards, and accepts nothing. -/
theorem test_edge_reset : after (block none true true 0xA24 false) = some none ∧
    after (block (some sample) true true 0xA24 true) = some none := by decide

/-- V-ST-2, V-ST-3, V-ST-8. -/
theorem test_edge_idle_and_accept : after (block none false false 0xA24 true) = some none ∧
    after (block none false true 0xA24 true) = some (some 0x28) ∧
    after (block none false true 0xB0C false) = some (some 0x1) := by decide

/-- V-ST-4, V-ST-5, V-ST-6: holding, the request is ignored. -/
theorem test_edge_hold_and_deliver : after (block (some sample) false true 0xB0C false) = some (some 0x28) ∧
    after (block (some sample) false false 0 true) = some none ∧
    (block (some sample) false true 0xB0C true).event = .deliver ⟨Config.default, respond Config.default sample⟩ ∧
    (block (some sample) false true 0xB0C true).reqReady = false := by decide

/-- R31: before the first reset only an edge with `rst = 1` has a meaning. -/
theorem test_power_up : after { State.powerUp .default with inputs := [⟨false, true, 0, true⟩] } = none ∧
    after { State.powerUp .default with inputs := [⟨true, true, 0, true⟩] } = some none := by decide

/-! ## Text (30_encoding.md R72, R73) -/

theorem test_assemble : assembleText .default "ENCD 5, 4" = .ok sample ∧
    assembleText .default "ENCS 0x2A, 0b110" = .ok (.encs ⟨.lsbFirst, 6, 42, 0⟩) ∧
    assembleText .default "DECD [0,1,0,1]" = .ok (.decd ⟨.lsbFirst, 4, 0, 0xA⟩) ∧
    assembleText .default "ENCR 5, 64" = .error .notEncodable := by decide

theorem test_report : (reportOf (.encs ⟨.lsbFirst, 4, 5, 0⟩) (respond .default (.encs ⟨.lsbFirst, 4, 5, 0⟩))).text =
    "OK cnt=2 pos=[0,2]" ∧ (reportOf sample (respond .default sample)).text = "OK bits=[0,1,0,1]" := by decide

/-! ## Witnesses: concrete values that meet the hypotheses of the statements -/

/-- The largest request of the default instance. -/
def fullFields : Fields := ⟨.msbFirst, 63, 2 ^ 32 - 1, 2 ^ 32 - 1⟩

theorem witness_parameters : (1 ≤ 1 ∧ 1 ≤ 1) ∧ ¬ (1 ≤ 0 ∧ 0 ≤ 8) ∧ ¬ (1 ≤ 9 ∧ 9 ≤ 8) := by decide

theorem witness_widths : (∀ v ≤ Config.default.lmax, v < 2 ^ 6) ∧ (1 ≤ 5 ∧ ∀ v ≤ Config.default.lmax - 1, v < 2 ^ 5) := by
  decide

theorem witness_low_two_bits : (4 : BitVec Config.default.reqw).toNat &&& 3 = 0 ∧
    (5 : BitVec Config.default.reqw).toNat &&& 3 = 1 ∧ (6 : BitVec Config.default.reqw).toNat &&& 3 = 2 ∧
    (7 : BitVec Config.default.reqw).toNat &&& 3 = 3 := by decide

theorem witness_wf : Instr.wf .default (.decd fullFields) = true ∧ Instr.wf .small (.encd ⟨.lsbFirst, 15, 255, 255⟩) = true := by
  decide

theorem witness_wire_ranges : 0 < Config.default.lmax ∧ 31 < Config.default.lmax ∧ 4 < Config.default.idxw ∧
    31 < Config.default.w ∧ 5 < Config.default.lenw := by decide

theorem witness_above_length : sample.fields.len ≤ 4 ∧ sample.fields.len ≤ 31 := by decide

theorem witness_sequences : 3 < 4 ∧ 15 < 2 ^ 4 ∧ ([true, false] : BitSeq).length = 2 ∧ 0 ≤ 4 ∧ 4 ≤ 4 := by decide

theorem witness_legal_length : (⟨.msbFirst, 32, 5, 0⟩ : Fields).len ≤ State.reset.cfg.lmax ∧
    (⟨.lsbFirst, 0, 5, 0⟩ : Fields).len ≤ State.reset.cfg.lmax := by decide

theorem witness_capacity_fills_len : (⟨31, 31, by decide, by decide⟩ : Config).lmax + 1 = 2 ^ 5 := by decide

theorem witness_illegal_length : State.reset.cfg.lmax < (Instr.encs ⟨.lsbFirst, 33, 5, 0⟩).fields.len ∧
    State.reset.cfg.lmax < (Instr.decd fullFields).fields.len := by decide

theorem witness_fields_not_produced : (respond .default (.encs fullFields)).status ≠ .ok ∧
    (respond .default (.encs ⟨.lsbFirst, 4, 5, 0⟩)).cnt.toNat ≤ 2 := by decide

theorem witness_read_same :
    readSame (.encd ⟨.msbFirst, 4, 5, 0⟩) (.encd ⟨.msbFirst, 4, 21, 7⟩) ∧
    readSame (.encs ⟨.msbFirst, 4, 5, 0⟩) (.encs ⟨.lsbFirst, 4, 21, 7⟩) ∧
    readSame (.encr ⟨.msbFirst, 4, 5, 0⟩) (.encr ⟨.lsbFirst, 4, 21, 7⟩) ∧
    readSame (.decd ⟨.msbFirst, 4, 5, 5⟩) (.decd ⟨.lsbFirst, 4, 9, 21⟩) := by
  simp only [readSame]; decide

theorem witness_encr_is_encd : (⟨.msbFirst, 40, 5, 1⟩ : Fields).len = (⟨.lsbFirst, 40, 5, 2⟩ : Fields).len ∧
    (⟨.msbFirst, 40, 5, 1⟩ : Fields).n = (⟨.lsbFirst, 40, 5, 2⟩ : Fields).n ∧
    (⟨.lsbFirst, 40, 5, 2⟩ : Fields).order = .lsbFirst := by decide

/-- An accepting edge. -/
def accepting : State := block none false true 0xA24 false

theorem witness_accepting : accepting.seenReset = true ∧ accepting.sampled.rst = false ∧ accepting.rspValid = false ∧
    accepting.sampled.reqValid = true ∧ accepting.event = .accept sample := by decide

theorem witness_placed_word : decodeWord State.reset.cfg (0xA24 % 2 ^ 80) = .ok sample ∧
    (decodeWord State.reset.cfg ((2 ^ 73 - 1) % 2 ^ 73)).toOption = some (.decd fullFields) := by decide

/-- The five cases of R144, in its order, each out of reset. -/
theorem witness_five_cases :
    (block (some sample) true true 0 true).event = .reset ∧ accepting.event = .accept sample ∧
    (block none false false 0xA24 true).event = .idle ∧
    (block (some sample) false true 0 true).event = .deliver ⟨Config.default, respond Config.default sample⟩ ∧
    (block (some sample) false true 0 false).event = .hold ∧
    (block (some sample) true true 0 true).seenReset = true ∧ (block (some sample) false true 0 false).seenReset = true := by
  decide

theorem witness_power_up_reset :
    ({ State.powerUp .default with inputs := [⟨true, true, 0, true⟩] } : State).sampled.rst = true := by decide

/-- A reset edge and the cycle after it. -/
theorem witness_after_reset : (block none true false 0 false).sampled.rst = true ∧
    step (block none true false 0 false) = .next (block none true false 0 false).onReset ∧
    (block none true false 0 false).onReset.sampled.rst = false := ⟨by decide, rfl, by decide⟩

theorem witness_not_ready : (block (some sample) false true 7 false).inputs = [⟨false, true, 7, false⟩] ∧
    (block (some sample) false true 7 false).reqReady = false := by decide

theorem witness_outputs : (block (some sample) false true 7 false).rspValid = true ∧
    (block none false true 7 false).rspValid = false ∧
    (block none true true 7 false).sampled.rst = (block none true false 9 true).sampled.rst := by decide

/-- The three clauses of R176: held, taken, and ready again. -/
theorem witness_stable :
    step (block (some sample) false true 0 false) = .next (block (some sample) false true 0 false).onHold ∧
    (block (some sample) false true 0 false).sampled.rspReady = false ∧
    step (block (some sample) false true 0 true) = .next (block (some sample) false true 0 true).onDeliver ∧
    (block (some sample) false true 0 true).rspValid = true ∧
    (block (some sample) false true 0 true).onDeliver.rspValid = false ∧
    (block (some sample) false true 0 true).reqReady = false ∧
    (block (some sample) false true 0 true).onDeliver.reqReady = true := ⟨rfl, by decide, rfl, by decide⟩

/-- An accept, and the edge after it with the host ready. -/
theorem witness_accept_then_deliver :
    ({ accepting with inputs := accepting.inputs ++ [⟨false, true, 0, true⟩] } : State).event = .accept sample ∧
    step { accepting with inputs := accepting.inputs ++ [⟨false, true, 0, true⟩] } =
      .next (State.accept { accepting with inputs := [⟨false, true, 0, true⟩] } (respond Config.default sample)) ∧
    (State.accept { accepting with inputs := [⟨false, true, 0, true⟩] } (respond Config.default sample)).sampled.rspReady =
      true := ⟨by decide, rfl, by decide⟩

/-- The same request accepted by a block after reset and by one that has drawn other free values. -/
theorem witness_two_histories : accepting.cfg = ({ accepting with freeCtr := 9 } : State).cfg ∧
    accepting.event = .accept sample ∧ ({ accepting with freeCtr := 9 } : State).event = .accept sample ∧
    step accepting = .next (accepting.advance.accept (respond Config.default sample)) ∧
    step { accepting with freeCtr := 9 } =
      .next (State.accept { accepting with inputs := [], freeCtr := 9 } (respond Config.default sample)) :=
  ⟨rfl, by decide, by decide, rfl, rfl⟩

theorem witness_stops :
    ((State.powerUp .default).seenReset = false ∧ (State.powerUp .default).sampled.rst = false) ∧
    State.reset.seenReset = true ∧
    ({ State.powerUp .default with inputs := [⟨true, false, 0, false⟩] } : State).sampled.rst = true := by decide

theorem witness_good : (block (some sample) false true 0 false).Good ∧
    (block (some sample) false true 0 false).mayReadRsp = true ∧
    step (block (some sample) false true 0 false) = .next (block (some sample) false true 0 false).onHold :=
  ⟨fun _ => ⟨0xA24, rfl⟩, by decide, rfl⟩

/-- A reset, an accept, a deliver, and a reset that ends the run. -/
def shortRun : State :=
  { State.reset with inputs := [⟨true, false, 0, false⟩, ⟨false, true, 0xA24, false⟩, ⟨false, true, 0, true⟩, ⟨true, false, 0, false⟩] }

theorem witness_run : shortRun.sampled.rst = true ∧ step shortRun = .next shortRun.onReset ∧
    run 2 shortRun.onReset = .next (shortRun.onReset.advance.accept (respond Config.default sample)).onDeliver ∧
    Event.reset ∉ trace 2 shortRun.onReset ∧
    (shortRun.onReset.advance.accept (respond Config.default sample)).onDeliver.sampled.rst = true :=
  ⟨by decide, rfl, rfl, by decide, by decide⟩

theorem witness_assembled :
    (AsmLine.encd 5 33 .lsbFirst).assemble .default = .ok (.encd ⟨.lsbFirst, 33, 5, 0⟩) ∧
    (AsmLine.encdDefault 5 4).assemble .default = .ok sample ∧
    (AsmLine.encs 5 63).assemble .default = .ok (.encs ⟨.lsbFirst, 63, 5, 0⟩) ∧
    (AsmLine.encr 0 0).assemble .default = .ok (.encr ⟨.lsbFirst, 0, 0, 0⟩) ∧
    (AsmLine.decd [true, false]).assemble .default = .ok (.decd ⟨.lsbFirst, 2, 0, 1⟩) := by decide

end Sys2Proof.Tests
end

section
/-! 00_scope.md R8 to R10: which pairs of parameters make a codec, and the derived widths as least numbers of bits. The
widths come down to one fact about `ceilLog2`: it is at most `k` exactly when its argument is at most `2 ^ k`. -/

namespace Sys2Proof

/-! ## Which parameters are accepted -/

theorem Config.ofParams_eq_ok {w l : Nat} (one_le : 1 ≤ l) (le_w : l ≤ w) :
    Config.ofParams w l = .ok ⟨w, l, one_le, le_w⟩ := by
  simp [Config.ofParams, one_le, le_w]

theorem Config.ofParams_zero (w : Nat) : Config.ofParams w 0 = .error .lmaxZero := rfl

theorem Config.ofParams_above {w l : Nat} (above : w < l) : Config.ofParams w l = .error .lmaxAboveW := by
  have one_le : 1 ≤ l := by omega
  have not_le : ¬ l ≤ w := by omega
  simp [Config.ofParams, one_le, not_le]

/-! ## The widths as least numbers of bits -/

theorem ceilLog2_le_iff (n k : Nat) : ceilLog2 n ≤ k ↔ n ≤ 2 ^ k := by
  unfold ceilLog2
  split
  case isTrue small =>
    have : 1 ≤ 2 ^ k := Nat.one_le_two_pow
    omega
  case isFalse large =>
    have pred_ne_zero : n - 1 ≠ 0 := by omega
    calc (n - 1).log2 + 1 ≤ k ↔ (n - 1).log2 < k := Nat.succ_le_iff
      _ ↔ n - 1 < 2 ^ k := Nat.log2_lt pred_ne_zero
      _ ↔ n ≤ 2 ^ k := by omega

theorem ceilLog2_eq_clog (n : Nat) : ceilLog2 n = Nat.clog 2 n :=
  eq_of_forall_ge_iff fun k => by rw [ceilLog2_le_iff, Nat.clog_le_iff_le_pow one_lt_two]

theorem Config.lenw_le_iff (c : Config) (k : Nat) : c.lenw ≤ k ↔ c.lmax < 2 ^ k :=
  ceilLog2_le_iff (c.lmax + 1) k

theorem Config.idxw_le_iff (c : Config) (k : Nat) : c.idxw ≤ k ↔ 1 ≤ k ∧ c.lmax ≤ 2 ^ k := by
  rw [Config.idxw, max_le_iff, ceilLog2_le_iff]

/-- A range from 0 fits a width when its largest value does. -/
theorem forall_le_lt_iff (m b : Nat) : (∀ v ≤ m, v < b) ↔ m < b :=
  ⟨fun fits => fits m le_rfl, fun top_fits _ v_le => v_le.trans_lt top_fits⟩

/-! ## The obligations -/

/-- Settles O1: the constraint holds, or `LMAX` is zero, or it is above `W`. -/
theorem parametersOutsideTheConstraintAreRefused : Obligations.ParametersOutsideTheConstraintAreRefused := by
  intro w l
  constructor
  · rintro ⟨one_le, le_w⟩
    exact ⟨_, Config.ofParams_eq_ok one_le le_w, rfl, rfl⟩
  · intro outside
    obtain rfl | above : l = 0 ∨ w < l := by omega
    · exact ⟨_, Config.ofParams_zero w⟩
    · exact ⟨_, Config.ofParams_above above⟩

/-- Settles O2: `LMAX < 2 ^ k` is what both halves of the claim on `LENW` say, and `LMAX ≤ 2 ^ k`, as `LMAX >= 1`,
what those of the claim on `IDXW` do. -/
theorem derivedWidthsAreTheFewestBits : Obligations.DerivedWidthsAreTheFewestBits := by
  intro c
  have lenw_eq : c.lenw = Nat.clog 2 (c.lmax + 1) := ceilLog2_eq_clog _
  have idxw_eq : c.idxw = max 1 (Nat.clog 2 c.lmax) := by rw [Config.idxw, ceilLog2_eq_clog]
  have lenw_least (k : Nat) : (∀ v ≤ c.lmax, v < 2 ^ k) ↔ c.lenw ≤ k := by
    rw [forall_le_lt_iff, c.lenw_le_iff]
  have idxw_least (k : Nat) : (1 ≤ k ∧ ∀ v ≤ c.lmax - 1, v < 2 ^ k) ↔ c.idxw ≤ k := by
    have one_le := c.one_le_lmax
    rw [forall_le_lt_iff, c.idxw_le_iff, Nat.sub_lt_iff_lt_add one_le, Nat.lt_succ_iff]
  exact ⟨lenw_eq, idxw_eq, lenw_least, idxw_least, rfl, rfl⟩

/-- Settles O3, by evaluating the widths at the two pairs of parameters. -/
theorem defaultAndSmallInstanceWidths : Obligations.DefaultAndSmallInstanceWidths := by
  unfold Obligations.DefaultAndSmallInstanceWidths
  constructor
  · decide
  · decide

end Sys2Proof
end

section
/-! What the edges of 45_request_execution.md R144 do to the state, said once: every meaning places `Exec` of its
request, so an edge that goes on is one of five known state changes. -/

namespace Sys2Proof.Machine

/-! ## Exec and the meanings -/

/-- The check before the look at `op` (45_request_execution.md R140) and the one inside the operation are the same. -/
theorem lengthCheck_checked (c : Config) (f : Fields) (r : Response c) :
    (if f.len > c.lmax then errorResponse c .invalidLength else checked c f r) = checked c f r := by
  split
  case isTrue above => exact (checked_of_illegal above r).symm
  case isFalse => rfl

theorem respond_encd (c : Config) (f : Fields) : respond c (.encd f) = encd c f := lengthCheck_checked c f _

theorem respond_encs (c : Config) (f : Fields) : respond c (.encs f) = encs c f := lengthCheck_checked c f _

theorem respond_encr (c : Config) (f : Fields) : respond c (.encr f) = encr c f := lengthCheck_checked c f _

theorem respond_decd (c : Config) (f : Fields) : respond c (.decd f) = decd c f := lengthCheck_checked c f _

theorem exec_eq_accept (i : Instr) (s : State) : exec i s = .next (s.accept (respond s.cfg i)) := by
  cases i with
  | encd f => rw [respond_encd]; rfl
  | encs f => rw [respond_encs]; rfl
  | encr f => rw [respond_encr]; rfl
  | decd f => rw [respond_decd]; rfl

/-! ## The edge -/

theorem step_of_rst {s : State} (rst : s.sampled.rst = true) : step s = .next s.onReset := by
  simp [step, State.event, rst]

theorem step_of_accept {s : State} {i : Instr} (accepts : s.event = .accept i) :
    step s = .next (s.advance.accept (respond s.advance.cfg i)) := by
  rw [step, accepts]
  exact exec_eq_accept i s.advance

theorem event_eq_beforeFirstReset_iff (s : State) :
    s.event = .beforeFirstReset ↔ s.seenReset = false ∧ s.sampled.rst = false := by
  unfold State.event
  split_ifs <;> simp_all

theorem step_of_beforeFirstReset {s : State} (early : s.event = .beforeFirstReset) :
    step s = .refused .beforeFirstReset := by
  rw [step, early]

theorem exists_step_of_event_ne {s : State} (started : s.event ≠ .beforeFirstReset) : ∃ t, step s = .next t := by
  cases happens : s.event with
  | beforeFirstReset => exact absurd happens started
  | accept i => exact ⟨_, step_of_accept happens⟩
  | reset | idle | deliver r | hold => simp [step, happens]

/-- The state changes of `step_cases`, the accept edge's written out by `exec_eq_accept`: an edge that goes on empties
the block, accepts a request word's request, or holds. -/
theorem step_result {s t : State} (goes : step s = .next t) :
    t = s.onReset ∨ s.seenReset = true ∧
      (t = s.onDeliver ∨ t = s.onHold ∨
        t = s.advance.accept (respond s.advance.cfg (decodeReq s.cfg s.sampled.req)) ∨ t = s.onIdle) := by
  obtain ⟨_, _, rfl⟩ | ⟨_, _, seen, _, _, rfl⟩ | ⟨_, _, seen, _, _, rfl⟩ | ⟨_, _, seen, _, _, accepts⟩ |
    ⟨_, _, seen, _, _, rfl⟩ := step_cases goes
  · exact .inl rfl
  · exact .inr ⟨seen, .inl rfl⟩
  · exact .inr ⟨seen, .inr (.inl rfl)⟩
  · rw [exec_eq_accept] at accepts
    exact .inr ⟨seen, .inr (.inr (.inl (Host.Outcome.next.inj accepts).symm))⟩
  · exact .inr ⟨seen, .inr (.inr (.inr rfl))⟩

/-- The response the block holds after an accept edge, with the parameters it is of. -/
theorem accepted_response {s t : State} {i : Instr} (accepts : s.event = .accept i) (goes : step s = .next t) :
    (⟨t.cfg, t.rsp⟩ : Sigma Response) = ⟨s.cfg, respond s.cfg i⟩ := by
  obtain rfl := Host.Outcome.next.inj ((step_of_accept accepts).symm.trans goes)
  rfl

/-! ## The outputs of an idle block -/

theorem State.rspOut_of_idle {s : State} (idle : s.rspValid = false) : s.rspOut = none := by
  simp [State.rspOut, idle]

theorem State.reqReady_of_idle {s : State} (idle : s.rspValid = false) : s.reqReady = !s.sampled.rst := by
  simp [State.reqReady, idle]

/-! ## The invariant of 10_state.md R33 -/

theorem State.good_of_idle {s : State} (idle : s.rspValid = false) : s.Good := fun holding =>
  absurd holding (by simp [idle])

theorem State.good_accept_respond (s : State) (q : BitVec s.cfg.reqw) :
    (s.accept (respond s.cfg (decodeReq s.cfg q))).Good := fun _ => ⟨q, rfl⟩

theorem State.good_onHold {s : State} (good : s.Good) : s.onHold.Good := good

end Sys2Proof.Machine
end

section
/-! 10_state.md: the reset state, the outputs after a reset, when a step stops, and what every step keeps. -/

namespace Sys2Proof

open Machine

/-! ## The obligations -/

/-- Settles O51: an edge leaves the block idle, with nothing to show, or holding the response to the request word it
has just accepted, or holding what it held. -/
theorem heldResponseAnswersARequest : Obligations.HeldResponseAnswersARequest := by
  intro s t good goes
  obtain rfl | ⟨_, rfl | rfl | rfl | rfl⟩ := step_result goes
  case inl => exact State.good_of_idle s.onReset_rspValid
  case inr.inl => exact State.good_of_idle s.onDeliver_rspValid
  case inr.inr.inl => exact State.good_onHold good
  case inr.inr.inr.inl => exact s.advance.good_accept_respond s.sampled.req
  case inr.inr.inr.inr => exact State.good_of_idle s.onIdle_rspValid

/-- Settles O47: each block holds `Exec` of the request, a function of the parameters and the request. -/
theorem responseDependsOnTheRequestAlone : Obligations.ResponseDependsOnTheRequestAlone := by
  intro s t s' t' i same_cfg s_accepts t_accepts s_goes t_goes
  calc (⟨s'.cfg, s'.rsp⟩ : Sigma Response)
      = ⟨s.cfg, respond s.cfg i⟩ := accepted_response s_accepts s_goes
    _ = ⟨t.cfg, respond t.cfg i⟩ := by rw [same_cfg]
    _ = ⟨t'.cfg, t'.rsp⟩ := (accepted_response t_accepts t_goes).symm

/-- Settles O49: a reset edge sets `seenReset`, every other edge that goes on finds it set; no state change touches
the parameters, and each moves the host on by one input. -/
theorem stepKeepsTheInstance : Obligations.StepKeepsTheInstance := by
  intro s t goes
  obtain rfl | ⟨seen, rfl | rfl | rfl | rfl⟩ := step_result goes
  case inl => exact ⟨rfl, s.onReset_seenReset, List.length_tail⟩
  all_goals exact ⟨rfl, seen, List.length_tail⟩

/-- Settles O39: the edge before was `onReset`, which leaves the block idle. -/
theorem outputsRightAfterReset : Obligations.OutputsRightAfterReset := by
  intro s t rst goes rst_now
  obtain rfl := Host.Outcome.next.inj ((step_of_rst rst).symm.trans goes)
  have idle := s.onReset_rspValid
  have ready : s.onReset.reqReady = true := by rw [State.reqReady_of_idle idle, rst_now]; rfl
  exact ⟨idle, ready, State.rspOut_of_idle idle⟩

/-- Settles O40: an idle block whose host drives nothing is ready. -/
theorem resetStateIsIdle : Obligations.ResetStateIsIdle := by
  have idle : State.reset.rspValid = false := State.resetOf_rspValid _
  have ready : State.reset.reqReady = true := by rw [State.reqReady_of_idle idle]; rfl
  exact ⟨idle, ready, State.rspOut_of_idle idle,
    State.resetOf_seenReset _, State.resetOf_cfg _, State.resetOf_inputs _⟩

/-- Settles O48: the two halves are the edge being, or not being, one before the first reset. -/
theorem stepStopsOnlyBeforeTheFirstReset : Obligations.StepStopsOnlyBeforeTheFirstReset := by
  intro s
  constructor
  · intro early
    exact step_of_beforeFirstReset ((event_eq_beforeFirstReset_iff s).mpr early)
  · intro started
    refine exists_step_of_event_ne fun early => ?_
    obtain ⟨unseen, no_rst⟩ := (event_eq_beforeFirstReset_iff s).mp early
    simp [unseen, no_rst] at started

/-- Settles O52: the block holds nothing right after reset. -/
theorem resetStateIsGood : Obligations.ResetStateIsGood := State.good_of_idle (State.resetOf_rspValid _)

end Sys2Proof
end

section
/-! Binary words made of adjacent fields (00_scope.md R11): how a slice of a number reads, and how a number of two
parts, the low part below `2 ^ k` and the rest above it, bounds and determines its parts. -/

namespace Sys2Proof

/-! ## Slices -/

theorem slice_lt (v lo width : Nat) : slice v lo width < 2 ^ width := Nat.mod_lt _ (Nat.two_pow_pos width)

@[simp] theorem testBit_slice (v lo width j : Nat) :
    (slice v lo width).testBit j = (decide (j < width) && v.testBit (lo + j)) := by
  simp [slice, Nat.testBit_mod_two_pow, Nat.testBit_shiftRight]

theorem slice_zero (v width : Nat) : slice v 0 width = v % 2 ^ width := rfl

theorem slice_eq_div_mod (v lo width : Nat) : slice v lo width = v / 2 ^ lo % 2 ^ width := by
  rw [slice, Nat.shiftRight_eq_div_pow]

/-- Two adjacent slices are one. -/
theorem slice_add (v lo k m : Nat) : slice v lo (k + m) = slice v lo k + 2 ^ k * slice v (lo + k) m := by
  simp only [slice_eq_div_mod, pow_add, Nat.mod_mul, Nat.div_div_eq_div_mul]

/-- The whole of a word is the word. -/
theorem slice_toNat {k : Nat} (q : BitVec k) : slice q.toNat 0 k = q.toNat := Nat.mod_eq_of_lt q.isLt

/-! ## A low part and the rest -/

theorem lowPart_add_lt {k m a b : Nat} (a_lt : a < 2 ^ k) (b_lt : b < 2 ^ m) : a + 2 ^ k * b < 2 ^ (k + m) := by
  calc a + 2 ^ k * b < 2 ^ k * (b + 1) := by rw [Nat.mul_succ]; omega
    _ ≤ 2 ^ k * 2 ^ m := Nat.mul_le_mul_left _ b_lt
    _ = 2 ^ (k + m) := (pow_add 2 k m).symm

theorem lowPart_add_inj {k a b a' b' : Nat} (a_lt : a < 2 ^ k) (a_lt' : a' < 2 ^ k) :
    a + 2 ^ k * b = a' + 2 ^ k * b' ↔ a = a' ∧ b = b' := by
  constructor
  · intro same
    have same_low := congrArg (· % 2 ^ k) same
    simp only [Nat.add_mul_mod_self_left, Nat.mod_eq_of_lt, a_lt, a_lt'] at same_low
    subst same_low
    exact ⟨rfl, Nat.eq_of_mul_eq_mul_left (Nat.two_pow_pos k) (Nat.add_left_cancel same)⟩
  · rintro ⟨rfl, rfl⟩
    rfl

end Sys2Proof
end

section
/-! 30_encoding.md R60, R61, R64, R65: the request word. Cutting a word into fields and packing them again gives the
word, since adjacent slices join; packing well-formed requests loses nothing, since each field stays below the next
one. The two together make decoding and encoding inverse to each other. -/

namespace Sys2Proof

/-! ## The order wire -/

theorem BitOrder.wire_lt (o : BitOrder) : o.wire < 2 ^ 1 := by cases o <;> decide

theorem BitOrder.wire_inj {o o' : BitOrder} : o.wire = o'.wire ↔ o = o' := by cases o <;> cases o' <;> decide

theorem BitOrder.ofWire_eq_msbFirst_iff (b : Nat) : BitOrder.ofWire b = .msbFirst ↔ b = 1 := by
  simp [BitOrder.ofWire]

theorem BitOrder.wire_ofWire {b : Nat} (b_lt : b < 2 ^ 1) : (BitOrder.ofWire b).wire = b := by
  obtain rfl | rfl : b = 0 ∨ b = 1 := by omega
  · rfl
  · rfl

/-! ## A request as its operation and its fields -/

theorem Instr.op_lt (i : Instr) : i.op < 2 ^ 2 := by cases i <;> simp [Instr.op]

theorem Instr.eq_of_op_of_fields {i i' : Instr} (same_op : i.op = i'.op) (same_fields : i.fields = i'.fields) :
    i = i' := by
  cases i <;> cases i' <;> simp_all [Instr.op, Instr.fields]

theorem Instr.wf_iff (c : Config) (i : Instr) :
    i.wf c = true ↔ i.fields.len < 2 ^ c.lenw ∧ i.fields.n < 2 ^ c.w ∧ i.fields.bits < 2 ^ c.lmax := by
  simp [Instr.wf, Fields.lenFits, Fields.nFits, Fields.bitsFit, and_assoc]

/-! ## Reading a word -/

@[simp] theorem instrOfWord_op (c : Config) (v : Nat) : (instrOfWord c v).op = slice v 0 2 := by
  have op_lt := slice_lt v 0 2
  obtain op_eq | op_eq | op_eq | op_eq :
      slice v 0 2 = 0 ∨ slice v 0 2 = 1 ∨ slice v 0 2 = 2 ∨ slice v 0 2 = 3 := by omega
  all_goals simp only [instrOfWord, op_eq, Instr.op]

@[simp] theorem instrOfWord_fields (c : Config) (v : Nat) : (instrOfWord c v).fields = fieldsOfWord c v := by
  unfold instrOfWord
  split <;> rfl

@[simp] theorem decodeReq_op (c : Config) (q : BitVec c.reqw) : (decodeReq c q).op = slice q.toNat 0 2 :=
  instrOfWord_op c q.toNat

@[simp] theorem decodeReq_fields (c : Config) (q : BitVec c.reqw) :
    (decodeReq c q).fields = fieldsOfWord c q.toNat :=
  instrOfWord_fields c q.toNat

theorem decodeReq_wf (c : Config) (q : BitVec c.reqw) : (decodeReq c q).wf c = true := by
  rw [Instr.wf_iff, decodeReq_fields]
  exact ⟨slice_lt _ _ _, slice_lt _ _ _, slice_lt _ _ _⟩

/-! ## Writing a word -/

/-- The weighted sum of 30_encoding.md R61 with each field followed by all the fields above it. -/
theorem wordOfInstr_eq_nested (c : Config) (i : Instr) :
    wordOfInstr c i = i.op + 2 ^ 2 * (i.fields.order.wire + 2 ^ 1 * (i.fields.len + 2 ^ c.lenw *
      (i.fields.n + 2 ^ c.w * i.fields.bits))) := by
  rw [wordOfInstr]
  ring

theorem reqw_eq_nested (c : Config) : c.reqw = 2 + (1 + (c.lenw + (c.w + c.lmax))) := by
  rw [Config.reqw]
  omega

theorem wordOfInstr_lt {c : Config} {i : Instr} (fits : i.wf c = true) : wordOfInstr c i < 2 ^ c.reqw := by
  obtain ⟨len_lt, n_lt, bits_lt⟩ := (Instr.wf_iff c i).mp fits
  rw [wordOfInstr_eq_nested, reqw_eq_nested]
  exact lowPart_add_lt i.op_lt <| lowPart_add_lt i.fields.order.wire_lt <| lowPart_add_lt len_lt <|
    lowPart_add_lt n_lt bits_lt

theorem encode_toNat {c : Config} {i : Instr} (fits : i.wf c = true) : (encode c i).toNat = wordOfInstr c i :=
  Nat.mod_eq_of_lt (wordOfInstr_lt fits)

/-- Two requests that fit the wires have the same number only if they are the same. -/
theorem wordOfInstr_inj {c : Config} {i i' : Instr} (fits : i.wf c = true) (fits' : i'.wf c = true)
    (same : wordOfInstr c i = wordOfInstr c i') : i = i' := by
  obtain ⟨len_lt, n_lt, _⟩ := (Instr.wf_iff c i).mp fits
  obtain ⟨len_lt', n_lt', _⟩ := (Instr.wf_iff c i').mp fits'
  rw [wordOfInstr_eq_nested, wordOfInstr_eq_nested, lowPart_add_inj i.op_lt i'.op_lt,
    lowPart_add_inj (BitOrder.wire_lt _) (BitOrder.wire_lt _), BitOrder.wire_inj, lowPart_add_inj len_lt len_lt',
    lowPart_add_inj n_lt n_lt'] at same
  obtain ⟨same_op, same_order, same_len, same_n, same_bits⟩ := same
  refine Instr.eq_of_op_of_fields same_op ?_
  calc i.fields = ⟨i.fields.order, i.fields.len, i.fields.n, i.fields.bits⟩ := rfl
    _ = i'.fields := by rw [same_order, same_len, same_n, same_bits]

theorem encode_inj {c : Config} {i i' : Instr} (fits : i.wf c = true) (fits' : i'.wf c = true)
    (same : encode c i = encode c i') : i = i' :=
  wordOfInstr_inj fits fits' <| by rw [← encode_toNat fits, ← encode_toNat fits', same]

/-- Packing the fields cut out of a number gives its low `REQW` bits. -/
theorem wordOfInstr_instrOfWord (c : Config) (v : Nat) : wordOfInstr c (instrOfWord c v) = slice v 0 c.reqw := by
  rw [wordOfInstr_eq_nested, reqw_eq_nested, instrOfWord_op, instrOfWord_fields]
  simp only [fieldsOfWord, BitOrder.wire_ofWire (slice_lt v 2 1), slice_add, Nat.zero_add, Nat.reduceAdd]

theorem encode_decodeReq (c : Config) (q : BitVec c.reqw) : encode c (decodeReq c q) = q := by
  rw [encode, decodeReq, wordOfInstr_instrOfWord, slice_toNat, BitVec.ofNat_toNat, BitVec.setWidth_eq]

/-! ## The obligations on the request word -/

/-- Settles O7: the request read back has the word of the request given, and encoding tells well-formed requests
apart. -/
theorem decodeOfEncodeIsTheRequest : Obligations.DecodeOfEncodeIsTheRequest := by
  intro c i fits
  exact encode_inj (decodeReq_wf c _) fits (encode_decodeReq c (encode c i))

/-- Settles O8: each field is a slice, so it fits its wires, and the slices join to the word. -/
theorem encodeOfDecodeIsTheWord : Obligations.EncodeOfDecodeIsTheWord := fun c q =>
  ⟨decodeReq_wf c q, encode_decodeReq c q⟩

/-- Settles O6: every field is a slice of the word, and the order is read off the one bit of its slice. -/
theorem fieldsAreReadFromTheirWires : Obligations.FieldsAreReadFromTheirWires := by
  intro c q
  have order_iff : (decodeReq c q).fields.order = .msbFirst ↔ q.getLsbD 2 = true := by
    have bit : slice q.toNat 2 1 = (q.getLsbD 2).toNat := by
      rw [slice_eq_div_mod, pow_one, ← Nat.toNat_testBit]; rfl
    rw [decodeReq_fields, fieldsOfWord, BitOrder.ofWire_eq_msbFirst_iff, bit, Bool.toNat_eq_one]
  refine ⟨rfl, fun j => ?_, order_iff, fun j => ?_, fun j => ?_, fun j => ?_⟩
  · rw [decodeReq_op, testBit_slice, Nat.zero_add]; rfl
  · rw [decodeReq_fields]; exact testBit_slice _ _ _ j
  · rw [decodeReq_fields]; exact testBit_slice _ _ _ j
  · rw [decodeReq_fields]; exact testBit_slice _ _ _ j

/-- Settles O5: masking a word with 3 leaves its `op` slice, and the operation is the constructor of the request. -/
theorem lowTwoBitsSelectTheOperation : Obligations.LowTwoBitsSelectTheOperation := by
  intro c q
  have masked : q.toNat &&& 3 = (decodeReq c q).op := by
    rw [decodeReq_op, slice_zero]
    exact Nat.and_two_pow_sub_one_eq_mod q.toNat 2
  rw [masked]
  refine ⟨?_, ?_, ?_, ?_⟩
  all_goals exact fun op_eq => ⟨_, Instr.eq_of_op_of_fields op_eq rfl⟩

/-- The fields of a decoded request as quotients and remainders of the word's number (30_encoding.md R61). -/
theorem decodeReq_fields_as_numbers (c : Config) (q : BitVec c.reqw) :
    (decodeReq c q).fields.order.wire = q.toNat / 2 ^ 2 % 2 ∧
      (decodeReq c q).fields.len = q.toNat / 2 ^ 3 % 2 ^ c.lenw ∧
      (decodeReq c q).fields.n = q.toNat / 2 ^ (3 + c.lenw) % 2 ^ c.w ∧
      (decodeReq c q).fields.bits = q.toNat / 2 ^ (3 + c.lenw + c.w) % 2 ^ c.lmax := by
  rw [decodeReq_fields]
  exact ⟨(BitOrder.wire_ofWire (slice_lt q.toNat 2 1)).trans (slice_eq_div_mod _ _ _), slice_eq_div_mod _ _ _,
    slice_eq_div_mod _ _ _, slice_eq_div_mod _ _ _⟩

/-- Settles O9: the general fields and the general sum, at the widths of the two pairs of parameters. -/
theorem requestWordAsANumber : Obligations.RequestWordAsANumber :=
  ⟨decodeReq_fields_as_numbers Config.default, fun _ fits => encode_toNat fits,
    decodeReq_fields_as_numbers Config.small, fun _ fits => encode_toNat fits⟩

/-- Settles O4, by reading the fields off the five words. -/
theorem specWordsDecodeAsWritten : Obligations.SpecWordsDecodeAsWritten := by
  unfold Obligations.SpecWordsDecodeAsWritten
  decide

end Sys2Proof
end

section
/-! 30_encoding.md R62: the response word. As for the request word, the slices of a word join to the word and packing
tells responses apart; the slots are packed by recursion, so their part of either fact is an induction. -/

namespace Sys2Proof.Machine

/-! ## The status wires -/

theorem Status.code_lt (st : Status) : st.code < 2 ^ 2 := by cases st <;> decide

theorem Status.code_inj {st st' : Status} : st.code = st'.code ↔ st = st' := by
  cases st <;> cases st' <;> decide

theorem Status.code_ofCode {k : Nat} (k_lt : k < 2 ^ 2) : (Status.ofCode k).code = k := by
  obtain rfl | rfl | rfl | rfl : k = 0 ∨ k = 1 ∨ k = 2 ∨ k = 3 := by omega
  all_goals rfl

/-! ## The slots -/

theorem packSlots_lt {w : Nat} (ps : List (BitVec w)) : packSlots ps < 2 ^ (ps.length * w) := by
  induction ps with
  | nil => exact Nat.two_pow_pos _
  | cons p ps ih =>
    rw [packSlots, List.length_cons, Nat.succ_mul, Nat.add_comm _ w]
    exact lowPart_add_lt p.isLt ih

theorem packSlots_inj {w : Nat} : ∀ {ps ps' : List (BitVec w)}, ps.length = ps'.length →
    packSlots ps = packSlots ps' → ps = ps'
  | [], [], _, _ => rfl
  | p :: ps, p' :: ps', same_length, same => by
    obtain ⟨same_head, same_tail⟩ := (lowPart_add_inj p.isLt p'.isLt).mp same
    rw [BitVec.eq_of_toNat_eq same_head, packSlots_inj (Nat.succ.inj same_length) same_tail]

/-- Packing the `n` slots cut out of a number from bit `lo` on gives that stretch of the number. -/
theorem packSlots_slices (v w n : Nat) : ∀ lo : Nat,
    packSlots ((List.range n).map fun k => BitVec.ofNat w (slice v (lo + k * w) w)) = slice v lo (n * w) := by
  induction n with
  | zero => intro lo; rw [Nat.zero_mul, slice, pow_zero, Nat.mod_one]; rfl
  | succ n ih =>
    intro lo
    have next_slot (k : Nat) : lo + (k + 1) * w = lo + w + k * w := by ring
    have first_slot : (BitVec.ofNat w (slice v (lo + 0 * w) w)).toNat = slice v lo w := by
      rw [Nat.zero_mul, Nat.add_zero, BitVec.toNat_ofNat, Nat.mod_eq_of_lt (slice_lt v lo w)]
    rw [List.range_succ_eq_map, List.map_cons, List.map_map, packSlots, first_slot]
    simp only [Function.comp_def, Nat.succ_eq_add_one, next_slot, ih]
    rw [← slice_add, Nat.succ_mul, Nat.add_comm]

/-! ## Writing a response word -/

/-- The packed response with each field followed by all the fields above it. -/
theorem wordOfResponse_eq_nested {c : Config} (r : Response c) :
    wordOfResponse r = r.status.code + 2 ^ 2 * (r.bits.toNat + 2 ^ c.lmax * (r.value.toNat + 2 ^ c.w *
      (r.cnt.toNat + 2 ^ c.lenw * packSlots r.pos.toList))) := by
  rw [wordOfResponse, slotBase]
  ring

theorem rspw_eq_nested (c : Config) : c.rspw = 2 + (c.lmax + (c.w + (c.lenw + c.lmax * c.idxw))) := by
  rw [Config.rspw]
  omega

theorem wordOfResponse_lt {c : Config} (r : Response c) : wordOfResponse r < 2 ^ c.rspw := by
  have slots_lt := packSlots_lt r.pos.toList
  rw [Vector.length_toList] at slots_lt
  rw [wordOfResponse_eq_nested, rspw_eq_nested]
  exact lowPart_add_lt r.status.code_lt <| lowPart_add_lt r.bits.isLt <| lowPart_add_lt r.value.isLt <|
    lowPart_add_lt r.cnt.isLt slots_lt

theorem packResponse_toNat {c : Config} (r : Response c) : (packResponse r).toNat = wordOfResponse r :=
  Nat.mod_eq_of_lt (wordOfResponse_lt r)

/-- Two responses of the same parameters have the same number only if they are the same. -/
theorem wordOfResponse_inj {c : Config} {r r' : Response c} (same : wordOfResponse r = wordOfResponse r') : r = r' := by
  rw [wordOfResponse_eq_nested, wordOfResponse_eq_nested, lowPart_add_inj r.status.code_lt r'.status.code_lt,
    Status.code_inj, lowPart_add_inj r.bits.isLt r'.bits.isLt, lowPart_add_inj r.value.isLt r'.value.isLt,
    lowPart_add_inj r.cnt.isLt r'.cnt.isLt] at same
  obtain ⟨same_status, same_bits, same_value, same_cnt, same_slots⟩ := same
  have same_pos : r.pos.toList = r'.pos.toList := packSlots_inj (by simp only [Vector.length_toList]) same_slots
  cases r
  cases r'
  rw [Response.mk.injEq]
  exact ⟨same_status, BitVec.eq_of_toNat_eq same_bits, BitVec.eq_of_toNat_eq same_value,
    BitVec.eq_of_toNat_eq same_cnt, Vector.toList_inj.mp same_pos⟩

theorem packResponse_inj {c : Config} {r r' : Response c} (same : packResponse r = packResponse r') : r = r' :=
  wordOfResponse_inj <| by rw [← packResponse_toNat, ← packResponse_toNat, same]

/-! ## Reading a response word -/

/-- Packing the fields cut out of a word gives the number of the word. -/
theorem wordOfResponse_unpackResponse (c : Config) (q : BitVec c.rspw) :
    wordOfResponse (unpackResponse c q) = q.toNat := by
  have ofNat_slice (lo width : Nat) : (BitVec.ofNat width (slice q.toNat lo width)).toNat = slice q.toNat lo width :=
    Nat.mod_eq_of_lt (slice_lt _ _ _)
  calc wordOfResponse (unpackResponse c q)
      = slice q.toNat 0 2 + 2 ^ 2 * (slice q.toNat 2 c.lmax + 2 ^ c.lmax * (slice q.toNat (2 + c.lmax) c.w +
          2 ^ c.w * (slice q.toNat (2 + c.lmax + c.w) c.lenw + 2 ^ c.lenw *
            slice q.toNat (slotBase c) (c.lmax * c.idxw)))) := by
        simp only [wordOfResponse_eq_nested, unpackResponse, Status.code_ofCode (slice_lt q.toNat 0 2), ofNat_slice,
          slotsOf_toList, packSlots_slices]
    _ = slice q.toNat 0 c.rspw := by simp only [rspw_eq_nested, slice_add, slotBase, Nat.zero_add]
    _ = q.toNat := slice_toNat q

theorem packResponse_unpackResponse (c : Config) (q : BitVec c.rspw) : packResponse (unpackResponse c q) = q := by
  rw [packResponse, wordOfResponse_unpackResponse, BitVec.ofNat_toNat, BitVec.setWidth_eq]

theorem unpackResponse_packResponse {c : Config} (r : Response c) : unpackResponse c (packResponse r) = r :=
  packResponse_inj (packResponse_unpackResponse c (packResponse r))

/-- A bundle cut out of a word carries the word's wires. -/
theorem getLsbD_ofNat_slice {k : Nat} (q : BitVec k) (lo : Nat) {width j : Nat} (j_lt : j < width) :
    (BitVec.ofNat width (slice q.toNat lo width)).getLsbD j = q.getLsbD (lo + j) := by
  rw [BitVec.getLsbD_ofNat, testBit_slice, decide_eq_true j_lt, Bool.true_and, Bool.true_and]
  rfl

theorem unpackResponse_code_testBit {c : Config} (q : BitVec c.rspw) {j : Nat} (j_lt : j < 2) :
    (unpackResponse c q).status.code.testBit j = q.getLsbD j := by
  rw [unpackResponse, Status.code_ofCode (slice_lt _ _ _), testBit_slice, decide_eq_true j_lt, Bool.true_and,
    Nat.zero_add]
  rfl

theorem unpackResponse_pos {c : Config} (q : BitVec c.rspw) {k : Nat} (k_lt : k < c.lmax) :
    (unpackResponse c q).pos[k] = BitVec.ofNat c.idxw (slice q.toNat (slotBase c + k * c.idxw) c.idxw) :=
  slotsOf_getElem c.lmax _ k k_lt

/-! ## The obligations on the response word -/

/-- Settles O11: the slices of a word join to the word, and packing tells responses apart. -/
theorem responseWordRoundTrip : Obligations.ResponseWordRoundTrip := fun c =>
  ⟨unpackResponse_packResponse, packResponse_unpackResponse c⟩

/-- Settles O10: a response is read back from its word, and every field read from a word is a slice of it. -/
theorem responseFieldsDriveTheirWires : Obligations.ResponseFieldsDriveTheirWires := by
  intro c r
  obtain ⟨q, rfl⟩ : ∃ q, unpackResponse c q = r := ⟨packResponse r, unpackResponse_packResponse r⟩
  rw [packResponse_unpackResponse]
  refine ⟨rfl, fun j j_lt => ?_, fun j j_lt => ?_, fun j j_lt => ?_, fun j j_lt => ?_, fun k k_lt j j_lt => ?_⟩
  · exact (unpackResponse_code_testBit q j_lt).symm
  · exact (getLsbD_ofNat_slice q _ j_lt).symm
  · exact (getLsbD_ofNat_slice q _ j_lt).symm
  · exact (getLsbD_ofNat_slice q _ j_lt).symm
  · rw [unpackResponse_pos q k_lt]
    exact (getLsbD_ofNat_slice q _ j_lt).symm

end Sys2Proof.Machine
end

section
/-! What the conversions read of their operands, from the closed forms of their loops, and what the length check at the
top of every operation can answer. -/

namespace Sys2Proof.Machine

/-! ## Closed forms of the encoders -/

/-- Element `j` of the dense sequence is the bit of `n` that the order puts at `j` (40_dense_encoder.md R90). -/
theorem denseEnc_getElem? (n L : Nat) (order : BitOrder) (j : Nat) :
    (denseEnc n L order)[j]? = if j < L then some (n.testBit (placeOf order L j)) else none := by
  cases order with
  | lsbFirst =>
    have bounds : 0 ≤ j ∧ j < 0 + L ∧ j < (List.replicate L false).length ↔ j < L := by
      rw [List.length_replicate]; omega
    rw [denseEnc, denseEncLoop_lsbFirst]
    simp only [bounds, placeOf, Nat.sub_zero, List.getElem?_replicate]
    split <;> rfl
  | msbFirst =>
    have bounds : j + 0 < L ∧ L ≤ j + 0 + L ↔ j < L := by omega
    rw [denseEnc, denseEncLoop_msbFirst L L 0 n _ j List.length_replicate (by omega)]
    simp only [bounds, placeOf, Nat.sub_zero, List.getElem?_replicate]
    split <;> rfl

theorem denseEnc_getD_of_le (n : Nat) {L j : Nat} (order : BitOrder) (L_le : L ≤ j) :
    (denseEnc n L order).getD j false = false := by
  rw [List.getD_eq_getElem?_getD, denseEnc_getElem?, if_neg (Nat.not_lt.mpr L_le)]
  rfl

theorem placeOf_lt (order : BitOrder) {L j : Nat} (j_lt : j < L) : placeOf order L j < L := by
  cases order with
  | lsbFirst => exact j_lt
  | msbFirst => simp only [placeOf]; omega

theorem denseEnc_congr {n m L : Nat} (order : BitOrder) (agree : ∀ j < L, n.testBit j = m.testBit j) :
    denseEnc n L order = denseEnc m L order := by
  refine List.ext_getElem? fun j => ?_
  rw [denseEnc_getElem?, denseEnc_getElem?]
  split
  case isTrue j_lt => rw [agree _ (placeOf_lt order j_lt)]
  case isFalse => rfl

/-- The sparse list is the positions below `L` of the set bits (41_sparse_encoder.md R100). -/
theorem sparseEnc_eq_filter (n L : Nat) : sparseEnc n L = (List.range L).filter (n.testBit ·) := by
  rw [sparseEnc, sparseEncLoop_eq]
  simp

theorem sparseEnc_congr {n m L : Nat} (agree : ∀ j < L, n.testBit j = m.testBit j) :
    sparseEnc n L = sparseEnc m L := by
  rw [sparseEnc_eq_filter, sparseEnc_eq_filter]
  exact List.filter_congr fun j mem => agree j (List.mem_range.mp mem)

theorem sparseEnc_length_le (n L : Nat) : (sparseEnc n L).length ≤ L := by
  rw [sparseEnc_eq_filter]
  exact (List.length_filter_le _ _).trans_eq List.length_range

theorem seqOperand_congr {f g : Fields} (same_len : f.len = g.len)
    (agree : ∀ j < f.len, f.bits.testBit j = g.bits.testBit j) : seqOperand f = seqOperand g := by
  rw [seqOperand, seqOperand, ← same_len]
  exact List.map_congr_left fun j mem => agree j (List.mem_range.mp mem)

/-! ## The length check -/

/-- The check reads the length and nothing else of the request. -/
theorem checked_congr {c : Config} {f g : Fields} (same_len : f.len = g.len) (r : Response c) :
    checked c f r = checked c g r := by
  rw [checked, checked, same_len]

/-- What holds of the result of a legal request and of the error response holds of the checked result
(60_exceptions.md R152). -/
theorem checked_of_both {c : Config} {f : Fields} {r : Response c} (P : Response c → Prop)
    (legal : f.len ≤ c.lmax → P r) (illegal : P (errorResponse c .invalidLength)) : P (checked c f r) := by
  obtain within | above := le_or_gt f.len c.lmax
  · rw [checked_of_legal within]
    exact legal within
  · rw [checked_of_illegal above]
    exact illegal

theorem checked_ok_or_error {c : Config} {f : Fields} {r : Response c} (ok : r.status = .ok) :
    (checked c f r).status = .ok ∨ checked c f r = errorResponse c .invalidLength :=
  checked_of_both (fun r => r.status = .ok ∨ r = errorResponse c .invalidLength) (fun _ => .inl ok) (.inr rfl)

/-- A response reports success, or is the error response for an illegal length. -/
theorem respond_ok_or_error (c : Config) (i : Instr) :
    (respond c i).status = .ok ∨ respond c i = errorResponse c .invalidLength := by
  cases i with
  | encd f => rw [respond_encd]; exact checked_ok_or_error rfl
  | encs f => rw [respond_encs]; exact checked_ok_or_error rfl
  | encr f => rw [respond_encr]; exact checked_ok_or_error rfl
  | decd f => rw [respond_decd]; exact checked_ok_or_error rfl

end Sys2Proof.Machine
end

section
/-! 30_encoding.md R68, R74, R75: the fields a response leaves 0, the fields of a request it does not depend on, and the
statuses it can have. -/

namespace Sys2Proof.Machine

/-! ## The fields an operation does not produce -/

/-- The response lists no position: `cnt` and every slot are 0. -/
def Response.NoList {c : Config} (r : Response c) : Prop := r.cnt = 0 ∧ ∀ k, ∀ h : k < c.lmax, r.pos[k] = 0

/-- The response is 0 in every field and on every wire that the operation does not produce (30_encoding.md R75). -/
def Response.ZeroBeside {c : Config} (i : Instr) (r : Response c) : Prop :=
  match i with
  | .encd f => r.value = 0 ∧ r.NoList ∧ ∀ j, f.len ≤ j → r.bits.getLsbD j = false
  | .encs _ => r.bits = 0 ∧ r.value = 0 ∧ ∀ k, ∀ h : k < c.lmax, r.cnt.toNat ≤ k → r.pos[k] = 0
  | .encr f => r.value = 0 ∧ r.NoList ∧ ∀ j, f.len ≤ j → r.bits.getLsbD j = false
  | .decd _ => r.bits = 0 ∧ r.NoList

@[simp] theorem blankResponse_pos (c : Config) (st : Status) (k : Nat) (h : k < c.lmax) :
    (blankResponse c st).pos[k] = 0 :=
  slotsOf_getElem c.lmax _ k h

theorem blankResponse_noList (c : Config) (st : Status) : (blankResponse c st).NoList :=
  ⟨rfl, blankResponse_pos c st⟩

theorem errorResponse_zeroBeside (c : Config) (st : Status) (i : Instr) : (errorResponse c st).ZeroBeside i := by
  have noList := blankResponse_noList c st
  cases i with
  | encd f => exact ⟨rfl, noList, fun _ _ => BitVec.getLsbD_zero⟩
  | encs f => exact ⟨rfl, rfl, fun k h _ => blankResponse_pos c st k h⟩
  | encr f => exact ⟨rfl, noList, fun _ _ => BitVec.getLsbD_zero⟩
  | decd f => exact ⟨rfl, noList⟩

theorem wires_denseEnc_getLsbD_of_le (k n : Nat) {L j : Nat} (order : BitOrder) (L_le : L ≤ j) :
    (wires k (denseEnc n L order)).getLsbD j = false := by
  rw [wires_getLsbD, denseEnc_getD_of_le n order L_le, Bool.and_false]

/-- `cnt` holds the length of a list of positions below a legal length. -/
theorem sparseEnc_length_toNat {c : Config} {L : Nat} (legal : L ≤ c.lmax) (n : Nat) :
    (BitVec.ofNat c.lenw (sparseEnc n L).length).toNat = (sparseEnc n L).length := by
  have lmax_lt : c.lmax < 2 ^ c.lenw := (c.lenw_le_iff c.lenw).mp le_rfl
  exact Nat.mod_eq_of_lt (((sparseEnc_length_le n L).trans legal).trans_lt lmax_lt)

theorem slots_getElem_of_le (c : Config) (p : List Nat) {k : Nat} (h : k < c.lmax) (length_le : p.length ≤ k) :
    (slots c p)[k] = 0 := by
  rw [slots_getElem, List.getD_eq_default _ _ length_le]
  rfl

theorem respond_zeroBeside (c : Config) (i : Instr) : (respond c i).ZeroBeside i := by
  have illegal := errorResponse_zeroBeside c .invalidLength i
  have noList := blankResponse_noList c .ok
  cases i with
  | encd f =>
    rw [respond_encd]
    exact checked_of_both _ (fun _ => ⟨rfl, noList, fun _ => wires_denseEnc_getLsbD_of_le _ _ _⟩) illegal
  | encs f =>
    rw [respond_encs]
    refine checked_of_both _ (fun legal => ⟨rfl, rfl, fun k h cnt_le => ?_⟩) illegal
    rw [sparseEnc_length_toNat legal] at cnt_le
    exact slots_getElem_of_le c _ h cnt_le
  | encr f =>
    rw [respond_encr]
    exact checked_of_both _ (fun _ => ⟨rfl, noList, fun _ => wires_denseEnc_getLsbD_of_le _ _ _⟩) illegal
  | decd f =>
    rw [respond_decd]
    exact checked_of_both _ (fun _ => ⟨rfl, noList⟩) illegal

/-! ## The fields an operation does not read -/

theorem respond_congr_of_readSame (c : Config) {i j : Instr} (same : readSame i j) : respond c i = respond c j := by
  cases i <;> cases j <;> try exact same.elim
  case encd.encd f g =>
    obtain ⟨same_len, same_order, agree⟩ := same
    rw [respond_encd, respond_encd, encd, encd, checked_congr same_len, denseEnc_congr f.order agree, same_len,
      same_order]
  case encs.encs f g =>
    obtain ⟨same_len, agree⟩ := same
    rw [respond_encs, respond_encs, encs, encs, checked_congr same_len, sparseEnc_congr agree, same_len]
  case encr.encr f g =>
    obtain ⟨same_len, agree⟩ := same
    rw [respond_encr, respond_encr, encr, encr, checked_congr same_len, denseEnc_congr .lsbFirst agree, same_len]
  case decd.decd f g =>
    obtain ⟨same_len, agree⟩ := same
    rw [respond_decd, respond_decd, decd, decd, checked_congr same_len, seqOperand_congr same_len agree]

/-! ## The obligations on responses -/

/-- Settles O30: a response that does not report success is the error response, and a successful one fills only the
fields of its operation. -/
theorem fieldsNotProducedAreZero : Obligations.FieldsNotProducedAreZero := by
  intro c i
  constructor
  · intro not_ok
    obtain ok | error := respond_ok_or_error c i
    · exact absurd ok not_ok
    · rw [error]
      exact ⟨rfl, rfl, blankResponse_noList c _⟩
  · have zero := respond_zeroBeside c i
    cases i <;> exact zero

/-- Settles O31: a meaning places `Exec` of its request, which looks at the fields read and no others. -/
theorem fieldsNotReadHaveNoEffect : Obligations.FieldsNotReadHaveNoEffect := by
  intro i j s same
  rw [exec_eq_accept, exec_eq_accept, respond_congr_of_readSame s.cfg same]

/-- Settles O53: a held response is `Exec` of a request word, which has one of two statuses. -/
theorem readStatusIsOkOrInvalidLength : Obligations.ReadStatusIsOkOrInvalidLength := by
  intro s good may_read
  obtain ⟨holding, _⟩ : s.rspValid = true ∧ s.sampled.rst = false := by simpa [State.mayReadRsp] using may_read
  obtain ⟨q, answers⟩ := good holding
  refine ⟨s.rsp, if_pos holding, ?_⟩
  rw [answers]
  obtain ok | error := respond_ok_or_error s.cfg (decodeReq s.cfg q)
  · exact .inl (congrArg Status.code ok)
  · exact .inr (congrArg (fun r => r.status.code) error)

end Sys2Proof.Machine
end

section
/-! 30_encoding.md R72, R73: the requests that lines of text stand for. -/

namespace Sys2Proof.Machine

theorem AsmLine.assemble_eq_ok {c : Config} {a : AsmLine} {i : Instr} (assembled : a.assemble c = .ok i) :
    i = a.instr c ∧ i.wf c = true := by
  unfold AsmLine.assemble at assembled
  split at assembled
  case isTrue fits =>
    obtain rfl := Except.ok.inj assembled
    exact ⟨rfl, fits⟩
  case isFalse => contradiction

/-- Settles O55: a line that assembles gives its own request, and the operand of `DECD` is its sequence on wires. -/
theorem assembledRequestsZeroTheirDontCares : Obligations.AssembledRequestsZeroTheirDontCares := by
  intro c a i assembled
  obtain ⟨rfl, fits⟩ := AsmLine.assemble_eq_ok assembled
  refine ⟨fits, ?_⟩
  cases a with
  | encd n len order => rfl
  | encdDefault n len => rfl
  | encs n len => rfl
  | encr n len => rfl
  | decd s => exact ⟨_, rfl, wires_getLsbD c.lmax s⟩

end Sys2Proof.Machine
end

section
/-! 40_dense_encoder.md: the value of each element of the dense sequence, and the response of `ENCD`. -/

namespace Sys2Proof.Machine

/-! ## The dense sequence -/

theorem denseEnc_getElem?_of_lt (n : Nat) (order : BitOrder) {L j : Nat} (j_lt : j < L) :
    (denseEnc n L order)[j]? = some (n / 2 ^ placeOf order L j % 2 == 1) := by
  rw [denseEnc_getElem?, if_pos j_lt, Nat.testBit_eq_decide_div_mod_eq]
  rfl

/-- Settles O13: the closed form of the loop, at the place each of the two orders gives index `j`. -/
theorem denseLoopMeetsItsClosedForm : Obligations.DenseLoopMeetsItsClosedForm := fun n _ _ j_lt =>
  ⟨denseEnc_getElem?_of_lt n .lsbFirst j_lt, denseEnc_getElem?_of_lt n .msbFirst j_lt⟩

/-! ## The response of `ENCD` -/

/-- On wires enough for the sequence, wire `j` below its length carries element `j` and every other wire 0
(20_memory.md R42, R46). -/
theorem wires_denseEnc_getLsbD {k L : Nat} (L_le : L ≤ k) (n : Nat) (order : BitOrder) (j : Nat) :
    (wires k (denseEnc n L order)).getLsbD j = (decide (j < L) && n.testBit (placeOf order L j)) := by
  obtain j_lt | L_le_j := lt_or_ge j L
  · rw [wires_getLsbD, List.getD_eq_getElem?_getD, denseEnc_getElem?, if_pos j_lt, Option.getD_some,
      decide_eq_true j_lt, decide_eq_true (j_lt.trans_le L_le)]
  · rw [wires_denseEnc_getLsbD_of_le k n order L_le_j, decide_eq_false (Nat.not_lt.mpr L_le_j), Bool.false_and]

theorem placeOf_eq_ite (order : BitOrder) (L j : Nat) :
    placeOf order L j = if order = .msbFirst then L - 1 - j else j := by
  cases order <;> rfl

theorem encd_of_legal {c : Config} {f : Fields} (legal : f.len ≤ c.lmax) :
    encd c f = { blankResponse c .ok with bits := wires c.lmax (denseEnc f.n f.len f.order) } :=
  checked_of_legal legal _

/-- Settles O24: a legal request gets the dense sequence beside a blank response, and accepting it writes the response
register alone. -/
theorem encdAnswersTheDenseSequence : Obligations.EncdAnswersTheDenseSequence := by
  intro f s legal
  refine ⟨encd s.cfg f, rfl, ?_⟩
  rw [encd_of_legal legal]
  refine ⟨rfl, rfl, rfl, blankResponse_pos s.cfg .ok, fun j => ?_⟩
  rw [← placeOf_eq_ite]
  exact wires_denseEnc_getLsbD legal f.n f.order j

end Sys2Proof.Machine
end

section
/-! 41_sparse_encoder.md: the sparse list as a rising list of set positions, and the response of `ENCS`. -/

namespace Sys2Proof.Machine

/-! ## The sparse list -/

theorem mem_sparseEnc {n L i : Nat} : i ∈ sparseEnc n L ↔ i < L ∧ n.testBit i = true := by
  rw [sparseEnc_eq_filter, List.mem_filter, List.mem_range]

theorem lt_of_mem_sparseEnc {n L i : Nat} (mem : i ∈ sparseEnc n L) : i < L := (mem_sparseEnc.mp mem).1

theorem sparseEnc_pairwise_lt (n L : Nat) : (sparseEnc n L).Pairwise (· < ·) := by
  rw [sparseEnc_eq_filter]
  exact List.pairwise_lt_range.filter _

/-- The step of the loop that looks at bit `L`. -/
theorem sparseEnc_succ (n L : Nat) :
    sparseEnc n (L + 1) = sparseEnc n L ++ if n.testBit L then [L] else [] := by
  rw [sparseEnc_eq_filter, sparseEnc_eq_filter, List.range_succ, List.filter_append,
    List.filter_singleton, Bool.cond_eq_ite]

theorem sparseEnc_mod_two_pow (n L : Nat) : sparseEnc (n % 2 ^ L) L = sparseEnc n L :=
  sparseEnc_congr fun j j_lt => by rw [Nat.testBit_mod_two_pow, decide_eq_true j_lt, Bool.true_and]

/-- A longer length adds no position to the list of a number that already fits. -/
theorem sparseEnc_eq_of_le {v K L : Nat} (v_lt : v < 2 ^ K) (K_le : K ≤ L) : sparseEnc v L = sparseEnc v K := by
  induction L, K_le using Nat.le_induction with
  | base => rfl
  | succ L K_le ih =>
    have above_false : v.testBit L = false :=
      Nat.testBit_lt_two_pow (v_lt.trans_le (Nat.pow_le_pow_right two_pos K_le))
    rw [sparseEnc_succ, above_false, ih]
    exact List.append_nil _

theorem popcount_eq_length_sparseEnc {v L : Nat} (v_lt : v < 2 ^ L) : popcount v = (sparseEnc v L).length := by
  have same_list : sparseEnc v (v.log2 + 1) = sparseEnc v L := by
    obtain le | ge := le_total (v.log2 + 1) L
    · exact (sparseEnc_eq_of_le Nat.lt_log2_self le).symm
    · exact sparseEnc_eq_of_le v_lt ge
  rw [← same_list, sparseEnc_eq_filter, popcount, List.countP_eq_length_filter]

theorem length_sparseEnc (n L : Nat) : (sparseEnc n L).length = popcount (n % 2 ^ L) := by
  rw [popcount_eq_length_sparseEnc (Nat.mod_lt n (Nat.two_pow_pos L)), sparseEnc_mod_two_pow]

/-- A bit weighs in the remainder modulo the next power of two what its position adds to the sum. -/
theorem sum_two_pow_sparseEnc (n L : Nat) : ((sparseEnc n L).map (2 ^ ·)).sum = n % 2 ^ L := by
  induction L with
  | zero => rw [Nat.pow_zero, Nat.mod_one]; rfl
  | succ L ih =>
    rw [sparseEnc_succ, List.map_append, List.sum_append, ih, Nat.mod_pow_succ, Nat.testBit_eq_decide_div_mod_eq]
    obtain zero | one := Nat.mod_two_eq_zero_or_one (n / 2 ^ L)
    · simp [zero]
    · simp [one]

/-- Settles O21: the list is the range filtered, as long as the number of set bits of the remainder, and its sum
follows the loop. -/
theorem sparseListMeetsItsInvariants : Obligations.SparseListMeetsItsInvariants := fun n L =>
  ⟨sparseEnc_pairwise_lt n L, fun _ => lt_of_mem_sparseEnc, length_sparseEnc n L, sum_two_pow_sparseEnc n L⟩

/-! ## The response of `ENCS` -/

/-- A slot holds any position below a legal length, and the 0 of an unused slot, as the number it is
(20_memory.md R44, R46). -/
theorem slots_sparseEnc_toNat {c : Config} {L : Nat} (legal : L ≤ c.lmax) (n : Nat) {k : Nat} (h : k < c.lmax) :
    ((slots c (sparseEnc n L))[k]).toNat = (sparseEnc n L).getD k 0 := by
  obtain ⟨_, lmax_le⟩ : 1 ≤ c.idxw ∧ c.lmax ≤ 2 ^ c.idxw := (c.idxw_le_iff c.idxw).mp le_rfl
  obtain used | unused := lt_or_ge k (sparseEnc n L).length
  · have entry_lt : (sparseEnc n L)[k] < 2 ^ c.idxw :=
      ((lt_of_mem_sparseEnc (List.getElem_mem used)).trans_le legal).trans_le lmax_le
    rw [slots_getElem, List.getD_eq_getElem _ _ used]
    exact Nat.mod_eq_of_lt entry_lt
  · rw [slots_getElem_of_le c _ h unused, List.getD_eq_default _ _ unused]
    rfl

theorem encs_of_legal {c : Config} {f : Fields} (legal : f.len ≤ c.lmax) :
    encs c f = { blankResponse c .ok with
      cnt := BitVec.ofNat c.lenw (sparseEnc f.n f.len).length, pos := slots c (sparseEnc f.n f.len) } :=
  checked_of_legal legal _

/-- Settles O25: a legal request gets the sparse list and its length beside a blank response, and accepting it writes
the response register alone. -/
theorem encsAnswersTheSetPositions : Obligations.EncsAnswersTheSetPositions := by
  intro f s legal
  refine ⟨encs s.cfg f, sparseEnc f.n f.len, rfl, ?_⟩
  rw [encs_of_legal legal]
  exact ⟨rfl, rfl, rfl, sparseEnc_pairwise_lt f.n f.len, fun _ => mem_sparseEnc, sparseEnc_length_toNat legal f.n,
    fun _ h => slots_sparseEnc_toNat legal f.n h⟩

end Sys2Proof.Machine
end

section
/-! 42_reversed_dense_encoder.md: `ENCR` as `ENCD` with the order fixed, and the response of `ENCR`. -/

namespace Sys2Proof.Machine

/-- The two encoders differ in where they take the order from, and share the length check and the dense sequence
(42_reversed_dense_encoder.md R111). -/
theorem encr_eq_encd_of_lsbFirst (c : Config) {f g : Fields} (same_len : f.len = g.len) (same_n : f.n = g.n)
    (lsb_first : g.order = .lsbFirst) : encr c f = encd c g := by
  rw [encr, encd, same_len, same_n, lsb_first, checked_congr same_len]

/-- Settles O32: both meanings place the response of their request, and the two responses are one. -/
theorem encrIsEncdLsbFirst : Obligations.EncrIsEncdLsbFirst := by
  intro f g s same_len same_n lsb_first
  rw [exec_eq_accept, exec_eq_accept, respond_encr, respond_encd,
    encr_eq_encd_of_lsbFirst s.cfg same_len same_n lsb_first]

/-- Settles O26: the answer is that of `ENCD` to the same fields with the order LsbFirst, whose place `j` is `j`. -/
theorem encrAnswersTheLsbFirstSequence : Obligations.EncrAnswersTheLsbFirstSequence := by
  intro f s legal
  rw [encrIsEncdLsbFirst f { f with order := .lsbFirst } s rfl rfl rfl]
  exact encdAnswersTheDenseSequence { f with order := .lsbFirst } s legal

end Sys2Proof.Machine
end

section
/-! 43_dense_decoder.md: the decoder's loop as a rule for the last element and as a value for each bit, the decoder
against the dense encoder, and the response of `DECD`. -/

namespace Sys2Proof.Machine

/-! ## The value of a sequence -/

/-- The loop's first step adds the last element with weight 1, so that all before it weigh twice as much. -/
theorem denseDec_append_singleton (s : BitSeq) (b : Bit) : denseDec (s ++ [b]) = 2 * denseDec s + b.toNat := by
  have last_element : (s ++ [b]).getD s.length false = b := by simp
  calc denseDec (s ++ [b])
    _ = denseDecLoop (s ++ [b]) s.length (0 + b.toNat * 2 ^ 0) 1 := by
        rw [denseDec, List.length_append, List.length_singleton, denseDecLoop, last_element]
    _ = denseDecLoop s s.length (0 + b.toNat * 2 ^ 0) 1 := denseDecLoop_append s [b] s.length _ _ le_rfl
    _ = 2 * denseDec s + b.toNat := by rw [denseDecLoop_eq, denseDec]; omega

theorem denseDec_false_cons (s : BitSeq) : denseDec (false :: s) = denseDec s := by
  induction s using List.reverseRecOn with
  | nil => rfl
  | append_singleton s b ih =>
    rw [← List.cons_append, denseDec_append_singleton, denseDec_append_singleton, ih]

/-- Settles O20: the empty sequence takes no step of the loop, and the rule for the last element carries a leading 0
through the sequence. -/
theorem decoderWeighsElementsFromTheEnd : Obligations.DecoderWeighsElementsFromTheEnd :=
  ⟨rfl, fun s => ⟨denseDec_false_cons s, denseDec_append_singleton s⟩⟩

/-- Bit `i` of the value is the element `i` places before the last. -/
theorem testBit_denseDec_eq_getD_reverse (s : BitSeq) : ∀ i, (denseDec s).testBit i = s.reverse.getD i false := by
  induction s using List.reverseRecOn with
  | nil => exact Nat.zero_testBit
  | append_singleton s b ih =>
    intro i
    rw [denseDec_append_singleton, ← Nat.bit_val, List.reverse_concat]
    cases i with
    | zero => exact Nat.testBit_bit_zero b _
    | succ i => rw [Nat.testBit_bit_succ, ih, List.getD_cons_succ]

/-- Bit `i` of the value is the element at the index of weight `2^i` (43_dense_decoder.md R115). -/
theorem testBit_denseDec (s : BitSeq) (i : Nat) :
    (denseDec s).testBit i = (decide (i < s.length) && s.getD (s.length - 1 - i) false) := by
  rw [testBit_denseDec_eq_getD_reverse]
  obtain within | above := lt_or_ge i s.length
  · rw [decide_eq_true within, Bool.true_and, List.getD_reverse i within]
  · rw [decide_eq_false (Nat.not_lt.mpr above), Bool.false_and,
      List.getD_eq_default _ _ (List.length_reverse.trans_le above)]

/-- The value needs no more bits than the sequence has elements (43_dense_decoder.md R116). -/
theorem denseDec_lt (s : BitSeq) : denseDec s < 2 ^ s.length :=
  Nat.lt_pow_two_of_testBit _ fun i length_le => by
    rw [testBit_denseDec, decide_eq_false (Nat.not_lt.mpr length_le), Bool.false_and]

/-! ## The decoder against the encoder -/

/-- Two bits cut off by the same bound agree when they agree within it. -/
theorem decide_and_inj_iff (p : Prop) [Decidable p] (a b : Bool) :
    (decide p && a) = (decide p && b) ↔ (p → a = b) := by
  by_cases within : p
  · simp [within]
  · simp [within]

@[simp] theorem denseEnc_length (n L : Nat) (order : BitOrder) : (denseEnc n L order).length = L := by
  rw [denseEnc, denseEncLoop_length, List.length_replicate]

/-- A bit goes to the place the encoder gives it and is read with the weight the decoder gives that place. -/
theorem testBit_denseDec_denseEnc (n L : Nat) (order : BitOrder) (i : Nat) :
    (denseDec (denseEnc n L order)).testBit i = (decide (i < L) && n.testBit (placeOf order L (L - 1 - i))) := by
  rw [testBit_denseDec, denseEnc_length]
  refine (decide_and_inj_iff ..).mpr fun within => ?_
  have place_lt : L - 1 - i < L := by omega
  rw [List.getD_eq_getElem?_getD, denseEnc_getElem?, if_pos place_lt, Option.getD_some]

/-- The weight MsbFirst gives an index, and the index it gives a weight, are inverse to each other. -/
theorem sub_one_sub_sub_one_sub {L i : Nat} (within : i < L) : L - 1 - (L - 1 - i) = i := by omega

theorem denseDec_denseEnc_msbFirst (n L : Nat) : denseDec (denseEnc n L .msbFirst) = n % 2 ^ L := by
  refine Nat.eq_of_testBit_eq fun i => ?_
  rw [testBit_denseDec_denseEnc, Nat.testBit_mod_two_pow]
  refine (decide_and_inj_iff ..).mpr fun within => ?_
  rw [placeOf, sub_one_sub_sub_one_sub within]

theorem denseEnc_denseDec_msbFirst (s : BitSeq) : denseEnc (denseDec s) s.length .msbFirst = s := by
  refine List.ext_getElem (denseEnc_length _ _ _) fun j _ within => ?_
  refine Option.some.inj ?_
  rw [← List.getElem?_eq_getElem, denseEnc_getElem?, if_pos within, placeOf, testBit_denseDec,
    sub_one_sub_sub_one_sub within, List.getD_eq_getElem _ _ within, decide_eq_true (by omega), Bool.true_and]

/-- The integer decoded from an LsbFirst encoding is the low `L` bits of `n` reversed (43_dense_decoder.md R118). -/
theorem testBit_denseDec_denseEnc_lsbFirst (n L i : Nat) :
    (denseDec (denseEnc n L .lsbFirst)).testBit i = (decide (i < L) && n.testBit (L - 1 - i)) :=
  testBit_denseDec_denseEnc n L .lsbFirst i

theorem denseDec_denseEnc_lsbFirst_eq_mod_iff (n L : Nat) :
    denseDec (denseEnc n L .lsbFirst) = n % 2 ^ L ↔ ∀ i < L, n.testBit i = n.testBit (L - 1 - i) := by
  have bits_agree (i : Nat) :
      (denseDec (denseEnc n L .lsbFirst)).testBit i = (n % 2 ^ L).testBit i ↔
        (i < L → n.testBit i = n.testBit (L - 1 - i)) := by
    rw [testBit_denseDec_denseEnc_lsbFirst, Nat.testBit_mod_two_pow, decide_and_inj_iff,
      eq_comm (a := n.testBit i)]
  constructor
  · intro same i
    exact (bits_agree i).mp (congrArg (Nat.testBit · i) same)
  · intro palindrome
    exact Nat.eq_of_testBit_eq fun i => (bits_agree i).mpr (palindrome i)

/-- Settles O19: each bit followed through the encoder and the decoder, for one order and for the other. -/
theorem decoderAgainstTheEncoders : Obligations.DecoderAgainstTheEncoders := by
  intro n L
  refine ⟨denseDec_denseEnc_msbFirst n L, ?_, testBit_denseDec_denseEnc_lsbFirst n L,
    denseDec_denseEnc_lsbFirst_eq_mod_iff n L⟩
  rintro s rfl
  exact denseEnc_denseDec_msbFirst s

/-! ## The response of `DECD` -/

@[simp] theorem seqOperand_length (f : Fields) : (seqOperand f).length = f.len := by
  rw [seqOperand, List.length_map, List.length_range]

theorem seqOperand_getD {f : Fields} {j : Nat} (within : j < f.len) :
    (seqOperand f).getD j false = f.bits.testBit j := by
  rw [List.getD_eq_getElem _ _ (within.trans_eq (seqOperand_length f).symm)]
  simp [seqOperand]

theorem testBit_denseDec_seqOperand (f : Fields) (i : Nat) :
    (denseDec (seqOperand f)).testBit i = (decide (i < f.len) && f.bits.testBit (f.len - 1 - i)) := by
  rw [testBit_denseDec, seqOperand_length]
  exact (decide_and_inj_iff ..).mpr fun within => seqOperand_getD (by omega)

/-- The value of a sequence of legal length fits the integer field, since `LMAX ≤ W` (43_dense_decoder.md R116). -/
theorem denseDec_seqOperand_toNat {c : Config} {f : Fields} (legal : f.len ≤ c.lmax) :
    (BitVec.ofNat c.w (denseDec (seqOperand f))).toNat = denseDec (seqOperand f) := by
  have value_lt : denseDec (seqOperand f) < 2 ^ f.len := seqOperand_length f ▸ denseDec_lt (seqOperand f)
  exact Nat.mod_eq_of_lt (value_lt.trans_le (Nat.pow_le_pow_right two_pos (legal.trans c.lmax_le_w)))

theorem decd_of_legal {c : Config} {f : Fields} (legal : f.len ≤ c.lmax) :
    decd c f = { blankResponse c .ok with value := BitVec.ofNat c.w (denseDec (seqOperand f)) } :=
  checked_of_legal legal _

/-- Settles O27: a legal request gets the value of its operand beside a blank response, and accepting it writes the
response register alone. -/
theorem decdAnswersTheInteger : Obligations.DecdAnswersTheInteger := by
  intro f s legal
  refine ⟨decd s.cfg f, rfl, ?_⟩
  rw [decd_of_legal legal]
  refine ⟨rfl, rfl, rfl, blankResponse_pos s.cfg .ok, denseDec_seqOperand_toNat legal, fun i => ?_⟩
  rw [← BitVec.testBit_toNat, denseDec_seqOperand_toNat legal]
  exact testBit_denseDec_seqOperand f i

end Sys2Proof.Machine
end

section
/-! 44_arithmetic_and_laws.md: the dense sequence as the bits of `n` in rising order, the laws of the conversions, and
the fields of a response read as numbers. -/

namespace Sys2Proof.Machine

/-! ## The two orders -/

theorem denseEnc_lsbFirst_eq_map (n L : Nat) : denseEnc n L .lsbFirst = (List.range L).map n.testBit := by
  refine List.ext_getElem? fun j => ?_
  rw [denseEnc_getElem?, List.getElem?_map]
  split
  case isTrue j_lt => rw [List.getElem?_range j_lt]; rfl
  case isFalse not_lt => rw [List.getElem?_eq_none (List.length_range.trans_le (Nat.not_lt.mp not_lt))]; rfl

theorem denseEnc_msbFirst_eq_reverse (n L : Nat) : denseEnc n L .msbFirst = (denseEnc n L .lsbFirst).reverse := by
  refine List.ext_getElem? fun j => ?_
  obtain j_lt | L_le := lt_or_ge j L
  · have mirror_lt : L - 1 - j < L := by omega
    rw [List.getElem?_reverse (j_lt.trans_eq (denseEnc_length ..).symm), denseEnc_length, denseEnc_getElem?,
      denseEnc_getElem?, if_pos j_lt, if_pos mirror_lt]
    rfl
  · rw [List.getElem?_eq_none (by simpa using L_le), List.getElem?_eq_none (by simpa using L_le)]

/-- Settles O14: each order is the other reversed. -/
theorem msbFirstReversedIsLsbFirst : Obligations.MsbFirstReversedIsLsbFirst := fun n L => by
  rw [denseEnc_msbFirst_eq_reverse, List.reverse_reverse]

/-! ## Lengths -/

/-- Settles O12: the loop changes no length, and no response of a dense encoder drives a wire beyond the sequence. -/
theorem denseSequenceHasTheRequestedLength : Obligations.DenseSequenceHasTheRequestedLength := by
  refine ⟨denseEnc_length, fun c f j len_le => ?_⟩
  obtain ⟨_, _, encd_above⟩ := respond_zeroBeside c (.encd f)
  obtain ⟨_, _, encr_above⟩ := respond_zeroBeside c (.encr f)
  exact ⟨encd_above j len_le, encr_above j len_le⟩

theorem denseEnc_lsbFirst_take (n : Nat) {K L : Nat} (K_le : K ≤ L) :
    (denseEnc n L .lsbFirst).take K = denseEnc n K .lsbFirst := by
  rw [denseEnc_lsbFirst_eq_map, denseEnc_lsbFirst_eq_map, ← List.map_take, List.take_range, min_eq_left K_le]

/-- The first elements of one order are the last ones of the other, reversed. -/
theorem denseEnc_msbFirst_drop (n : Nat) {K L : Nat} (K_le : K ≤ L) :
    (denseEnc n L .msbFirst).drop (L - K) = denseEnc n K .msbFirst := by
  rw [denseEnc_msbFirst_eq_reverse, denseEnc_msbFirst_eq_reverse, List.drop_reverse, denseEnc_length,
    Nat.sub_sub_self K_le, denseEnc_lsbFirst_take n K_le]

theorem sparseEnc_prefix (n : Nat) {K L : Nat} (K_le : K ≤ L) : sparseEnc n K <+: sparseEnc n L := by
  induction L, K_le using Nat.le_induction with
  | base => exact List.prefix_rfl
  | succ L _ ih =>
    rw [sparseEnc_succ]
    exact ih.trans (List.prefix_append _ _)

/-- The steps of the loop after the first `K` append no entry below `K`. -/
theorem sparseEnc_filter_lt (n : Nat) {K L : Nat} (K_le : K ≤ L) :
    (sparseEnc n L).filter (· < K) = sparseEnc n K := by
  induction L, K_le using Nat.le_induction with
  | base => exact List.filter_eq_self.mpr fun _ mem => decide_eq_true (lt_of_mem_sparseEnc mem)
  | succ L K_le ih =>
    have new_entry_dropped : (if n.testBit L then [L] else []).filter (· < K) = [] := by
      split <;> simp [K_le]
    rw [sparseEnc_succ, List.filter_append, ih, new_entry_dropped, List.append_nil]

/-- Settles O23: a shorter length stops the loops earlier. -/
theorem shorterResultsArePartsOfLongerOnes : Obligations.ShorterResultsArePartsOfLongerOnes := fun n _ _ K_le =>
  ⟨(denseEnc_lsbFirst_take n K_le).symm, (denseEnc_msbFirst_drop n K_le).symm, sparseEnc_prefix n K_le,
    (sparseEnc_filter_lt n K_le).symm⟩

/-! ## The low bits of `n` -/

theorem denseEnc_mod_two_pow (n L : Nat) (order : BitOrder) : denseEnc (n % 2 ^ L) L order = denseEnc n L order :=
  denseEnc_congr order fun j j_lt => by rw [Nat.testBit_mod_two_pow, decide_eq_true j_lt, Bool.true_and]

/-- Settles O16: the loops look at no bit at or above `L`. -/
theorem encodersTruncateToLowBits : Obligations.EncodersTruncateToLowBits := fun n L =>
  ⟨fun order => (denseEnc_mod_two_pow n L order).symm, (sparseEnc_mod_two_pow n L).symm⟩

/-- Settles O15: either side says that `i` is below `L` and bit `i` of `n` is set. -/
theorem sparsePositionsAreTheDenseOnes : Obligations.SparsePositionsAreTheDenseOnes := by
  intro n L i
  rw [mem_sparseEnc, denseEnc_getElem?]
  split
  case isTrue i_lt => simp [i_lt, placeOf]
  case isFalse not_lt => simp [not_lt]

theorem sparseEnc_eq_iff (n m L : Nat) : sparseEnc n L = sparseEnc m L ↔ n % 2 ^ L = m % 2 ^ L := by
  constructor
  · intro same_list
    rw [← sum_two_pow_sparseEnc n L, same_list, sum_two_pow_sparseEnc]
  · intro same_low_bits
    rw [← sparseEnc_mod_two_pow n L, same_low_bits, sparseEnc_mod_two_pow]

/-- Settles O22: the low bits are a sum over the list, and the list is computed from the low bits. -/
theorem sparseListDeterminesLowBits : Obligations.SparseListDeterminesLowBits :=
  ⟨fun n L => ⟨length_sparseEnc n L, sum_two_pow_sparseEnc n L⟩, sparseEnc_eq_iff⟩

/-! ## The round trip -/

theorem denseDec_denseEnc_msbFirst_of_lt {n L : Nat} (n_lt : n < 2 ^ L) : denseDec (denseEnc n L .msbFirst) = n := by
  rw [denseDec_denseEnc_msbFirst, Nat.mod_eq_of_lt n_lt]

/-- Settles O17: every bit below `L` comes back to its weight, and a number below `2^L` has no other. -/
theorem decodingTheDenseEncodingReturnsLowBits : Obligations.DecodingTheDenseEncodingReturnsLowBits := fun n L =>
  ⟨denseDec_denseEnc_msbFirst_of_lt, denseDec_denseEnc_msbFirst n L⟩

/-- Settles O18: the two compositions, with the range of each conversion. -/
theorem denseCodecIsABijection : Obligations.DenseCodecIsABijection :=
  ⟨fun s => ⟨denseDec_lt s, denseEnc_denseDec_msbFirst s⟩,
    fun n L n_lt => ⟨denseEnc_length n L .msbFirst, denseDec_denseEnc_msbFirst_of_lt n_lt⟩⟩

/-! ## The reversal of the low bits -/

/-- The `L`-bit reversal of `v`: its `L` low bits, lowest first, decoded as a sequence (44_arithmetic_and_laws.md
R138). -/
def lowBitsReversed (L v : Nat) : Nat := denseDec ((List.range L).map v.testBit)

theorem lowBitsReversed_eq (L v : Nat) : lowBitsReversed L v = denseDec (denseEnc v L .lsbFirst) := by
  rw [lowBitsReversed, denseEnc_lsbFirst_eq_map]

theorem testBit_lowBitsReversed (L v j : Nat) :
    (lowBitsReversed L v).testBit j = (decide (j < L) && v.testBit (L - 1 - j)) := by
  rw [lowBitsReversed_eq, testBit_denseDec_denseEnc_lsbFirst]

theorem lowBitsReversed_mod_two_pow (L v : Nat) : lowBitsReversed L (v % 2 ^ L) = lowBitsReversed L v := by
  rw [lowBitsReversed_eq, lowBitsReversed_eq, denseEnc_mod_two_pow]

/-- Encoding a value in the order opposite to the decoder's reverses the sequence it was decoded from. -/
theorem denseEnc_denseDec_lsbFirst (s : BitSeq) : denseEnc (denseDec s) s.length .lsbFirst = s.reverse := by
  rw [← msbFirstReversedIsLsbFirst, denseEnc_denseDec_msbFirst]

theorem denseEnc_lowBitsReversed (L v : Nat) :
    denseEnc (lowBitsReversed L v) L .lsbFirst = denseEnc v L .msbFirst := by
  have reversed_twice := denseEnc_denseDec_lsbFirst (denseEnc v L .lsbFirst)
  rwa [denseEnc_length, ← lowBitsReversed_eq, ← denseEnc_msbFirst_eq_reverse] at reversed_twice

theorem lowBitsReversed_lowBitsReversed (L v : Nat) : lowBitsReversed L (lowBitsReversed L v) = v % 2 ^ L := by
  rw [lowBitsReversed_eq, denseEnc_lowBitsReversed, denseDec_denseEnc_msbFirst]

/-! ## The fields of a response as numbers -/

theorem wires_denseEnc_lsbFirst_toNat {k L : Nat} (L_le : L ≤ k) (n : Nat) :
    (wires k (denseEnc n L .lsbFirst)).toNat = n % 2 ^ L := by
  refine Nat.eq_of_testBit_eq fun j => ?_
  rw [BitVec.testBit_toNat, wires_denseEnc_getLsbD L_le, Nat.testBit_mod_two_pow, placeOf]

theorem wires_denseEnc_msbFirst_toNat {k L : Nat} (L_le : L ≤ k) (n : Nat) :
    (wires k (denseEnc n L .msbFirst)).toNat = lowBitsReversed L n := by
  refine Nat.eq_of_testBit_eq fun j => ?_
  rw [BitVec.testBit_toNat, wires_denseEnc_getLsbD L_le, testBit_lowBitsReversed, placeOf]

theorem respond_encd_bits {c : Config} {f : Fields} (order : BitOrder) (legal : f.len ≤ c.lmax) :
    (respond c (.encd { f with order := order })).bits = wires c.lmax (denseEnc f.n f.len order) := by
  rw [respond_encd, encd_of_legal (f := { f with order := order }) legal]

theorem respond_encr_eq_encd (c : Config) (f : Fields) :
    respond c (.encr f) = respond c (.encd { f with order := .lsbFirst }) := by
  rw [respond_encr, respond_encd]
  exact encr_eq_encd_of_lsbFirst c rfl rfl rfl

theorem respond_decd_value_toNat {c : Config} {f : Fields} (legal : f.len ≤ c.lmax) :
    (respond c (.decd f)).value.toNat = lowBitsReversed f.len f.bits := by
  rw [respond_decd, decd_of_legal legal]
  exact denseDec_seqOperand_toNat legal

/-- Settles O33: LsbFirst puts the low bits on the wires as they are, MsbFirst and the decoder reverse them, and
reversing them twice gives them back. -/
theorem responseFieldsReadAsNumbers : Obligations.ResponseFieldsReadAsNumbers := by
  intro c f legal
  have lsb_bits : (respond c (.encd { f with order := .lsbFirst })).bits.toNat = f.n % 2 ^ f.len := by
    rw [respond_encd_bits .lsbFirst legal, wires_denseEnc_lsbFirst_toNat legal]
  have msb_bits : (respond c (.encd { f with order := .msbFirst })).bits.toNat = lowBitsReversed f.len f.n := by
    rw [respond_encd_bits .msbFirst legal, wires_denseEnc_msbFirst_toNat legal]
  refine ⟨?encr, lsb_bits, testBit_lowBitsReversed f.len, lowBitsReversed_lowBitsReversed f.len, ?msb, ?decd,
    fun order n => ?roundTrip⟩
  case encr => rw [respond_encr_eq_encd, lsb_bits]
  case msb => exact msb_bits.trans (lowBitsReversed_mod_two_pow f.len f.n).symm
  case decd => exact (respond_decd_value_toNat legal).trans (lowBitsReversed_mod_two_pow f.len f.bits).symm
  case roundTrip =>
    rw [respond_decd_value_toNat (f := ⟨order, f.len, n, _⟩) legal, msb_bits, lowBitsReversed_lowBitsReversed]

end Sys2Proof.Machine
end

section
/-! 45_request_execution.md R140 to R145: what happens at an edge as conditions on the inputs and the state, and the
next-state function. -/

namespace Sys2Proof.Machine

/-! ## The inputs and the outputs of a cycle -/

theorem State.sampled_of_inputs {s : State} {a : Inputs s.cfg} {rest : List (Inputs s.cfg)}
    (listed : s.inputs = a :: rest) : s.sampled = a := by
  rw [State.sampled, listed]
  rfl

theorem State.reqReady_eq_true_iff (s : State) : s.reqReady = true ↔ s.sampled.rst = false ∧ s.rspValid = false := by
  simp [State.reqReady]

theorem State.reqReady_eq_false_iff (s : State) : s.reqReady = false ↔ s.sampled.rst = true ∨ s.rspValid = true := by
  rw [← Bool.not_eq_true, s.reqReady_eq_true_iff, not_and_or, Bool.not_eq_false, Bool.not_eq_false]

/-! ## The event at an edge -/

theorem event_eq_accept_iff {s : State} (seen : s.seenReset = true) (i : Instr) :
    s.event = .accept i ↔ (s.sampled.rst = false ∧ s.rspValid = false ∧ s.sampled.reqValid = true) ∧
      decodeReq s.cfg s.sampled.req = i := by
  unfold State.event
  split_ifs <;> simp_all

theorem event_eq_deliver_iff {s : State} (seen : s.seenReset = true) (r : Sigma Response) :
    s.event = .deliver r ↔ (s.sampled.rst = false ∧ s.rspValid = true ∧ s.sampled.rspReady = true) ∧
      ⟨s.cfg, s.rsp⟩ = r := by
  unfold State.event
  split_ifs <;> simp_all

/-- A block that is not ready looks at none of the request inputs (45_request_execution.md R143). -/
theorem event_of_not_ready {s : State} (not_ready : s.reqReady = false) :
    s.event = if s.sampled.rst then .reset else if !s.seenReset then .beforeFirstReset
      else if s.sampled.rspReady then .deliver ⟨s.cfg, s.rsp⟩ else .hold := by
  obtain rst | holding := s.reqReady_eq_false_iff.mp not_ready
  · simp [State.event, rst]
  · simp [State.event, holding]

/-! ## The step -/

/-- Beside what happens at the edge, a step depends only on what stands once the inputs sampled there are gone. -/
theorem step_congr {s t : State} (same_event : s.event = t.event) (same_advance : s.advance = t.advance) :
    step s = step t := by
  have same_onReset : s.onReset = t.onReset :=
    congrArg (fun u : State => { u.release with seenReset := true }) same_advance
  simp only [step, State.onIdle, State.onDeliver, State.onHold, same_event, same_advance, same_onReset]

/-- Only before the first reset does a reset edge change more than an idle or a deliver edge (10_state.md R31). -/
theorem State.onReset_of_seenReset {s : State} (seen : s.seenReset = true) : s.onReset = s.advance.release := by
  rw [State.onReset, ← seen]
  rfl

theorem decodeReq_ofNat_of_decodeWord {c : Config} {v : Nat} {i : Instr} (decodes : decodeWord c v = .ok i) :
    decodeReq c (BitVec.ofNat c.reqw v) = i := by
  unfold decodeWord at decodes
  split at decodes
  case isTrue fits =>
    obtain rfl := Except.ok.inj decodes
    rw [decodeReq, BitVec.toNat_ofNat, Nat.mod_eq_of_lt fits]
  case isFalse => contradiction

/-! ## The obligations -/

/-- Settles O34: the four operations share the length check that `Exec` makes before it looks at `op`. -/
theorem everyMeaningPlacesExecOfTheRequest : Obligations.EveryMeaningPlacesExecOfTheRequest := exec_eq_accept

/-- Settles O35: under these conditions the edge is an accept of the request on the port. -/
theorem stepRunsTheDecodedRequest : Obligations.StepRunsTheDecodedRequest := by
  intro s seen no_rst idle presented
  have accepts : s.event = .accept (decodeReq s.cfg s.sampled.req) :=
    (event_eq_accept_iff seen _).mpr ⟨⟨no_rst, idle, presented⟩, rfl⟩
  rw [step, accepts]
  rfl

/-- Settles O36: the placed word is presented to a block that is idle and out of reset, and the port's wires decode to
the request of the word. -/
theorem stepRunsThePlacedWord : Obligations.StepRunsThePlacedWord := by
  intro s nbits w i decodes
  have port_decodes : decodeReq s.cfg (presentWord s.cfg nbits w).req = i := decodeReq_ofNat_of_decodeWord decodes
  rw [← port_decodes]
  exact stepRunsTheDecodedRequest (s.withFetchWord nbits w) rfl rfl rfl rfl

/-- Settles O37: a block reset once goes on at every edge, and the five ways it can are the five cases. -/
theorem stepIsTheNextStateFunction : Obligations.StepIsTheNextStateFunction := by
  intro s seen
  obtain ⟨t, goes⟩ := (stepStopsOnlyBeforeTheFirstReset s).2 (.inl seen)
  obtain ⟨_, rst, rfl⟩ | ⟨_, no_rst, _, holding, ready, rfl⟩ | ⟨_, no_rst, _, holding, not_ready, rfl⟩ |
    ⟨_, no_rst, _, idle, presented, accepts⟩ | ⟨_, no_rst, _, idle, not_presented, rfl⟩ := step_cases goes
  case inl =>
    rw [State.onReset_of_seenReset seen] at goes
    rw [if_pos rst]
    exact ⟨_, _, goes⟩
  case inr.inl =>
    rw [if_neg (by simp [no_rst]), if_neg (by simp [holding]), if_neg (by simp [holding]), if_pos ready]
    exact ⟨_, _, goes⟩
  case inr.inr.inl =>
    rw [if_neg (by simp [no_rst]), if_neg (by simp [holding]), if_neg (by simp [holding]), if_neg (by simp [not_ready])]
    exact goes
  case inr.inr.inr.inl =>
    rw [if_neg (by simp [no_rst]), if_pos ⟨idle, presented⟩]
    exact (goes.trans accepts.symm).trans (exec_eq_accept _ s.advance)
  case inr.inr.inr.inr =>
    rw [if_neg (by simp [no_rst]), if_neg (by simp [not_presented]), if_pos idle]
    exact ⟨_, _, goes⟩

/-- Settles O43: `req_ready` is the conjunction, and the output `rsp` a choice on the state bit. -/
theorem readyExactlyWhenIdleAndNotReset : Obligations.ReadyExactlyWhenIdleAndNotReset := fun s =>
  ⟨s.reqReady_eq_true_iff, fun holding => if_pos holding, State.rspOut_of_idle⟩

/-- Settles O41: the conditions of an accept, and, for a request presented while the block is not ready, that neither
what happens at the edge nor what it leaves of the inputs shows it. -/
theorem acceptExactlyWhenReadyAndPresented : Obligations.AcceptExactlyWhenReadyAndPresented := by
  intro s seen
  have accepts_iff : (∃ i, s.event = .accept i) ↔
      s.sampled.rst = false ∧ s.rspValid = false ∧ s.sampled.reqValid = true := by
    simp only [event_eq_accept_iff seen, exists_and_left, exists_eq', and_true]
  refine ⟨accepts_iff, ?ready, fun i accepts => ((event_eq_accept_iff seen i).mp accepts).2.symm, ?noTrace⟩
  case ready => rw [accepts_iff, s.reqReady_eq_true_iff, ← and_assoc, and_comm]
  case noTrace =>
    intro a rest v q listed not_ready
    have sampled_eq : s.sampled = a := State.sampled_of_inputs listed
    refine step_congr ?_ ?_
    · have not_ready' : State.reqReady { s with inputs := { a with reqValid := v, req := q } :: rest } = false := by
        rw [State.reqReady, sampled_eq] at not_ready
        exact not_ready
      rw [event_of_not_ready not_ready', event_of_not_ready not_ready, sampled_eq]
      rfl
    · rw [State.advance, State.advance, listed]
      rfl

/-- Settles O42, by the conditions of a deliver. -/
theorem deliverExactlyWhenHeldAndTaken : Obligations.DeliverExactlyWhenHeldAndTaken := by
  intro s seen
  constructor
  · simp only [event_eq_deliver_iff seen, exists_and_left, exists_eq', and_true]
  · exact fun r delivers => ((event_eq_deliver_iff seen r).mp delivers).2.symm

end Sys2Proof.Machine
end

section
/-! 45_request_execution.md R146, the law over transactions. Its invariant, from any state on: the response held at the
start, followed by `Exec` of the requests accepted, is the responses delivered, followed by the one held at the end. -/

namespace Sys2Proof.Machine

/-! ## Runs and their events -/

theorem run_succ_eq_next_iff (k : Nat) (s t : State) :
    run (k + 1) s = .next t ↔ ∃ u, step s = .next u ∧ run k u = .next t := by
  rw [run]
  cases step s <;> simp

theorem trace_succ_of_step {s u : State} (goes : step s = .next u) (k : Nat) :
    trace (k + 1) s = s.event :: trace k u := by
  rw [trace, goes]

/-- One more edge adds its event at the end. -/
theorem trace_succ_of_run (k : Nat) : ∀ {s t u : State}, run k s = .next t → step t = .next u →
    trace (k + 1) s = trace k s ++ [t.event] := by
  induction k with
  | zero =>
    intro s t u runs goes
    obtain rfl := Host.Outcome.next.inj runs
    exact trace_succ_of_step goes 0
  | succ k ih =>
    intro s t u runs goes
    obtain ⟨s', goes', runs'⟩ := (run_succ_eq_next_iff k s t).mp runs
    rw [trace_succ_of_step goes', trace_succ_of_step goes', ih runs' goes, List.cons_append]

/-! ## The response held -/

theorem State.held_of_idle {s : State} (idle : s.rspValid = false) : s.held = [] := by
  simp [State.held, idle]

theorem State.held_of_holding {s : State} (holding : s.rspValid = true) : s.held = [⟨s.cfg, s.rsp⟩] := if_pos holding

/-- `Exec` of a request, as a response with the parameters it is of (45_request_execution.md R140). -/
def execOf (c : Config) (i : Instr) : Sigma Response := ⟨c, respond c i⟩

/-- An edge without `rst` takes a request in, hands the response out, or leaves what is held as it is. -/
theorem held_of_step {s t : State} (goes : step s = .next t) (no_reset : s.event ≠ .reset) :
    (∃ i, s.event = .accept i ∧ s.held = [] ∧ t.held = [execOf s.cfg i]) ∨
    (∃ r, s.event = .deliver r ∧ s.held = [r] ∧ t.held = []) ∨
    ((s.event = .idle ∨ s.event = .hold) ∧ t.held = s.held) := by
  obtain ⟨reset, _⟩ | ⟨delivers, _, _, holding, _, rfl⟩ | ⟨holds, _, _, _, _, rfl⟩ | ⟨accepts, _, _, idle, _, places⟩ |
    ⟨idles, _, _, idle, _, rfl⟩ := step_cases goes
  case inl => exact absurd reset no_reset
  case inr.inl => exact .inr (.inl ⟨_, delivers, State.held_of_holding holding, State.held_of_idle s.onDeliver_rspValid⟩)
  case inr.inr.inl => exact .inr (.inr ⟨.inr holds, rfl⟩)
  case inr.inr.inr.inl =>
    rw [exec_eq_accept] at places
    obtain rfl := Host.Outcome.next.inj places
    exact .inl ⟨_, accepts, State.held_of_idle idle, rfl⟩
  case inr.inr.inr.inr =>
    exact .inr (.inr ⟨.inl idles, (State.held_of_idle s.onIdle_rspValid).trans (State.held_of_idle idle).symm⟩)

/-! ## The law over a run without a reset -/

/-- What the law says of the events on the way from one state to another, with a response held at either end or none:
no turn is out of place, and no response is lost, made up or overtaken. -/
structure TransfersInOrder (s : State) (es : List Event) (t : State) : Prop where
  /-- The first transfer is an accept exactly when nothing is held. -/
  turns : takeTurns s.held.isEmpty (transfersIn es)
  answers : s.held ++ (acceptedIn es).map (execOf s.cfg) = deliveredIn es ++ t.held

/-- An edge without `rst` at the beginning: it takes the turn that what is held gives it. -/
theorem TransfersInOrder.of_step {s u t : State} {es : List Event} (goes : step s = .next u)
    (no_reset : s.event ≠ .reset) (later : TransfersInOrder u es t) : TransfersInOrder s (s.event :: es) t := by
  obtain ⟨turns, answers⟩ := later
  rw [(stepKeepsTheInstance s u goes).1] at answers
  obtain ⟨i, accepts, none_held, held⟩ | ⟨r, delivers, held, none_held⟩ | ⟨idles | holds, same_held⟩ :=
    held_of_step goes no_reset
  · rw [held] at turns answers
    rw [accepts]
    constructor <;> rw [none_held]
    · exact ⟨rfl, turns⟩
    · exact answers
  · rw [none_held] at turns answers
    rw [delivers]
    constructor <;> rw [held]
    · exact ⟨rfl, turns⟩
    · exact congrArg (r :: ·) answers
  · rw [same_held] at turns answers
    rw [idles]
    exact ⟨turns, answers⟩
  · rw [same_held] at turns answers
    rw [holds]
    exact ⟨turns, answers⟩

theorem transfersInOrder_trace (k : Nat) : ∀ {s t : State}, run k s = .next t → Event.reset ∉ trace k s →
    TransfersInOrder s (trace k s) t := by
  induction k with
  | zero =>
    intro s t runs _
    obtain rfl := Host.Outcome.next.inj runs
    exact ⟨trivial, List.append_nil _⟩
  | succ k ih =>
    intro s t runs no_reset
    obtain ⟨u, goes, runs⟩ := (run_succ_eq_next_iff k s t).mp runs
    rw [trace_succ_of_step goes] at no_reset ⊢
    exact .of_step goes (List.ne_of_not_mem_cons no_reset).symm (ih runs (List.not_mem_of_not_mem_cons no_reset))

/-! ## The obligation -/

/-- Settles O54: right after a reset nothing is held, so the invariant speaks of the responses delivered and the one
held at the end alone. -/
theorem responsesAnswerRequestsInOrder : Obligations.ResponsesAnswerRequestsInOrder := by
  intro s₀ s t k rst goes runs no_reset
  obtain rfl := Host.Outcome.next.inj ((step_of_rst rst).symm.trans goes)
  obtain ⟨turns, answers⟩ := transfersInOrder_trace k runs no_reset
  have none_held : s₀.onReset.held = [] := State.held_of_idle s₀.onReset_rspValid
  rw [none_held] at turns answers
  refine ⟨turns, answers, fun rst_again => ?_⟩
  have resets : t.event = .reset := if_pos rst_again
  have goes_on := step_of_rst rst_again
  constructor
  · rw [trace_succ_of_run k runs goes_on, resets]
  · intro u goes'
    obtain rfl := Host.Outcome.next.inj (goes_on.symm.trans goes')
    exact State.held_of_idle t.onReset_rspValid

end Sys2Proof.Machine
end

section
/-! 60_exceptions.md: which requests raise the codec's one exception, and the response that answers them. -/

namespace Sys2Proof.Machine

/-! ## The status of a response -/

theorem checkLength_eq_invalidLength_iff (c : Config) (len : Nat) :
    checkLength c len = .invalidLength ↔ c.lmax < len := by
  unfold checkLength
  split
  case isTrue above => exact iff_of_true rfl above
  case isFalse within => exact iff_of_false Status.noConfusion within

/-- The length is checked before the operation is looked at (45_request_execution.md R140). -/
theorem respond_of_illegal {c : Config} {i : Instr} (illegal : c.lmax < i.fields.len) :
    respond c i = errorResponse c .invalidLength :=
  if_pos illegal

/-- An operation that passes the check fills data fields of a response that reports success. -/
theorem checked_status {c : Config} {f : Fields} {r : Response c} (ok : r.status = .ok) :
    (checked c f r).status = checkLength c f.len := by
  unfold checked checkLength
  split_ifs
  · rfl
  · exact ok

theorem respond_status (c : Config) (i : Instr) : (respond c i).status = checkLength c i.fields.len := by
  cases i with
  | encd f => rw [respond_encd]; exact checked_status rfl
  | encs f => rw [respond_encs]; exact checked_status rfl
  | encr f => rw [respond_encr]; exact checked_status rfl
  | decd f => rw [respond_decd]; exact checked_status rfl

theorem respond_status_eq_invalidLength_iff (c : Config) (i : Instr) :
    (respond c i).status = .invalidLength ↔ c.lmax < i.fields.len := by
  rw [respond_status, checkLength_eq_invalidLength_iff]

/-! ## Instances whose `len` wires carry legal lengths only -/

/-- Where `LMAX + 1` is a power of two, the largest number on the `LENW` wires is `LMAX`. -/
theorem two_pow_lenw_le {c : Config} {k : Nat} (full : c.lmax + 1 = 2 ^ k) : 2 ^ c.lenw ≤ c.lmax + 1 := by
  have lenw_le : c.lenw ≤ k := (c.lenw_le_iff k).mpr (by omega)
  rw [full]
  exact Nat.pow_le_pow_right two_pos lenw_le

/-! ## The obligations -/

/-- Settles O28: the status is the outcome of the length check, and a field of `LENW` wires cannot fail it where
`LMAX + 1` is a power of two. -/
theorem invalidLengthIsRaisedExactlyAboveCapacity : Obligations.InvalidLengthIsRaisedExactlyAboveCapacity := by
  constructor
  · intro i s
    exact ⟨respond s.cfg i, exec_eq_accept i s, respond_status_eq_invalidLength_iff s.cfg i⟩
  · intro c k full q raised
    have above : c.lmax < (decodeReq c q).fields.len := (respond_status_eq_invalidLength_iff c _).mp raised
    obtain ⟨carried, _, _⟩ := (Instr.wf_iff c _).mp (decodeReq_wf c q)
    have capacity := two_pow_lenw_le full
    omega

/-- Settles O29: the request places the error response, which is blank beside its status. -/
theorem illegalRequestsGetTheErrorResponse : Obligations.IllegalRequestsGetTheErrorResponse := by
  intro i s illegal
  refine ⟨respond s.cfg i, exec_eq_accept i s, ?_⟩
  rw [respond_of_illegal illegal]
  exact ⟨rfl, rfl, rfl, blankResponse_noList s.cfg .invalidLength⟩

end Sys2Proof.Machine
end

section
/-! 70_reset_and_hazards.md: what a reset does to any state, which inputs reach an output in their own cycle, how long a
response is held, and that a block once reset never stops. -/

namespace Sys2Proof.Machine

/-! ## The outputs as functions of `rst` and the state -/

/-- `req_ready` sees the inputs through `rst` only (70_reset_and_hazards.md R178). -/
theorem State.reqReady_congr {s t : State} (same_rst : t.sampled.rst = s.sampled.rst)
    (same_rspValid : t.rspValid = s.rspValid) : t.reqReady = s.reqReady := by
  rw [State.reqReady, State.reqReady, same_rst, same_rspValid]

/-! ## The edge of a block that holds a response -/

theorem event_of_rst {s : State} (rst : s.sampled.rst = true) : s.event = .reset := if_pos rst

/-- The cases of `step_cases` that are left while a response is held: the edge resets the block, hands the response
out, or holds it. -/
theorem step_cases_of_holding {s t : State} (holding : s.rspValid = true) (goes : step s = .next t) :
    (s.event = .reset ∧ s.sampled.rst = true) ∨
    (s.event = .deliver ⟨s.cfg, s.rsp⟩ ∧ s.sampled.rspReady = true) ∨ t = s.onHold := by
  obtain ⟨resets, rst, _⟩ | ⟨delivers, _, _, _, ready, _⟩ | ⟨_, _, _, _, _, holds⟩ | ⟨_, _, _, idle, _⟩ |
    ⟨_, _, _, idle, _⟩ := step_cases goes
  case inl => exact .inl ⟨resets, rst⟩
  case inr.inl => exact .inr (.inl ⟨delivers, ready⟩)
  case inr.inr.inl => exact .inr (.inr holds)
  all_goals exact absurd (holding.symm.trans idle) Bool.noConfusion

theorem event_of_rspValid_falls {s t : State} (goes : step s = .next t) (holding : s.rspValid = true)
    (emptied : t.rspValid = false) : s.event = .reset ∨ s.event = .deliver ⟨s.cfg, s.rsp⟩ := by
  obtain ⟨resets, _⟩ | ⟨delivers, _⟩ | rfl := step_cases_of_holding holding goes
  · exact .inl resets
  · exact .inr delivers
  · exact absurd (holding.symm.trans emptied) Bool.noConfusion

/-! ## Runs of a block once reset -/

/-- The invariant is that the block was reset once: with it an edge goes on, and every edge keeps it. -/
theorem exists_run_of_seenReset (k : Nat) : ∀ {s : State}, s.seenReset = true →
    ∃ t, run k s = .next t ∧ t.cfg = s.cfg := by
  induction k with
  | zero => exact fun _ => ⟨_, rfl, rfl⟩
  | succ k ih =>
    intro s seen
    obtain ⟨u, goes⟩ := (stepStopsOnlyBeforeTheFirstReset s).2 (.inl seen)
    obtain ⟨same_cfg, seen_after, _⟩ := stepKeepsTheInstance s u goes
    obtain ⟨t, runs, same_cfg_later⟩ := ih seen_after
    exact ⟨t, (run_succ_eq_next_iff k s t).mpr ⟨u, goes, runs⟩, same_cfg_later.trans same_cfg⟩

/-! ## The obligations -/

/-- Settles O38: `rst` is looked at first, so nothing else decides what the edge does or whether the block is ready. -/
theorem resetMakesAnyStateIdle : Obligations.ResetMakesAnyStateIdle := by
  intro s rst
  have resets := event_of_rst rst
  have not_ready : s.reqReady = false := s.reqReady_eq_false_iff.mpr (.inl rst)
  refine ⟨⟨_, _, step_of_rst rst⟩, not_ready, ?_, ?_⟩ <;> simp [resets]

/-- Settles O44: `rsp_valid` and `rsp` are read off the state, and so is `req_ready` but for `rst`. -/
theorem onlyResetReachesAnOutput : Obligations.OnlyResetReachesAnOutput := fun _ _ =>
  ⟨rfl, rfl, fun same_rst => State.reqReady_congr same_rst rfl⟩

/-- Settles O45: of the edges a holding block can see, only a hold is neither a reset nor a deliver; and a block that
is not ready out of reset is a holding one. -/
theorem heldResponseIsStable : Obligations.HeldResponseIsStable := by
  intro s t goes
  refine ⟨?held, event_of_rspValid_falls goes, ?readyRises⟩
  case held =>
    intro holding no_rst not_taken
    obtain ⟨_, rst⟩ | ⟨_, ready⟩ | rfl := step_cases_of_holding holding goes
    · exact absurd (rst.symm.trans no_rst) Bool.noConfusion
    · exact absurd (ready.symm.trans not_taken) Bool.noConfusion
    · exact ⟨holding, rfl⟩
  case readyRises =>
    intro not_ready ready_after
    obtain rst | holding := s.reqReady_eq_false_iff.mp not_ready
    · exact .inl (event_of_rst rst)
    · exact event_of_rspValid_falls goes holding (t.reqReady_eq_true_iff.mp ready_after).2

/-- Settles O46: the accept edge leaves the block holding `Exec` of the request, and a holding block takes no request in
and hands out what it holds. -/
theorem acceptIsFollowedByItsResponse : Obligations.AcceptIsFollowedByItsResponse := by
  intro s t i accepts goes
  have response := accepted_response accepts goes
  obtain ⟨_, seen, _⟩ := stepKeepsTheInstance s t goes
  have holding : t.rspValid = true := by
    obtain rfl := Host.Outcome.next.inj ((step_of_accept accepts).symm.trans goes)
    exact State.accept_rspValid _ _
  refine ⟨holding, response, ?noAccept, ?delivers⟩
  case noAccept =>
    intro j accepts_again
    obtain ⟨⟨_, idle, _⟩, _⟩ := (event_eq_accept_iff seen j).mp accepts_again
    exact absurd (holding.symm.trans idle) Bool.noConfusion
  case delivers =>
    intro no_rst ready
    exact (event_eq_deliver_iff seen _).mpr ⟨⟨no_rst, holding, ready⟩, response⟩

/-- Settles O50: right after reset the block was reset once, whatever inputs are listed. -/
theorem runsFromResetNeverStop : Obligations.RunsFromResetNeverStop := fun _ _ k =>
  exists_run_of_seenReset k rfl

end Sys2Proof.Machine
end
